-- ==== Sys2Proof/Word.lean ====
section
/-!
DEFINITION. Bytes, byte sequences and the ASCII characters the protocols name (spec 00, R9).
-/

namespace Sys2Proof

/-- An unsigned 8-bit value 0..255; bit 0 is the least significant (00 R9). -/
abbrev Byte := BitVec 8

/-- A byte sequence; index 0 comes first in the stream (00 R9). -/
abbrev Bytes := List Byte

/-- `'$'`, the start marker of an NMEA sentence (00 R9, 30 R61). -/
abbrev dollar : Byte := 0x24

/-- `'*'`, the checksum delimiter of an NMEA sentence (00 R9, 30 R61). -/
abbrev star : Byte := 0x2A

/-- `','`, which introduces a data field (00 R9, 30 R61). -/
abbrev comma : Byte := 0x2C

/-- CR, the first byte of the NMEA terminator (00 R9, 30 R61). -/
abbrev cr : Byte := 0x0D

/-- LF, the second byte of the NMEA terminator (00 R9, 30 R61). -/
abbrev lf : Byte := 0x0A

end Sys2Proof
end

