-- ==== Sys2Proof/Config.lean ====
section
/-!
DEFINITION. The implementation parameters of the block (spec 00, R7) as one plain structure, the closed set of
NMEA kinds its field tables are keyed by (41 R120), and the spec's test instance TI (R7, 92 D4).
-/

namespace Sys2Proof

/-- The nine classified NMEA kinds (10 R31). The spec's tenth classification result, `Unknown`, is never stored in a
record; `classify` answers `none` for it. -/
inductive Kind where
  | rmc | gga | gll | gsa | gsv | vtg | gst | grs | zda
deriving DecidableEq, Repr

/-- What happens to a stored field longer than its declared maximum (00 R7 `FIELD_POLICY`, 41 R128). -/
inductive FieldPolicy where
  | reject
  | truncate
deriving DecidableEq, Repr

/-- `FIELD_MAX(k, 1), FIELD_MAX(k, 2), …` for each kind, one list per kind; `FIELD_COUNT(k)` is the list's length
(00 R7, log entry 13). -/
structure FieldLimits where
  rmc : List Nat
  gga : List Nat
  gll : List Nat
  gsa : List Nat
  gsv : List Nat
  vtg : List Nat
  gst : List Nat
  grs : List Nat
  zda : List Nat
deriving DecidableEq, Repr

/-- The parameters of 00 R7, fixed for an instance of the block. -/
structure Config where
  magic0 : Byte
  magic1 : Byte
  grpResp : Byte
  subAck : Byte
  subNak : Byte
  grpCfg : Byte
  subRateSet : Byte
  subRateQuery : Byte
  subRateResp : Byte
  fieldLimits : FieldLimits
  fieldPolicy : FieldPolicy
  retainLoneMagic0 : Bool
  /-- The pairs `(tg, ts)` for which `TARGET_VALID` is false (43 R172, log entry 13). -/
  invalidTargets : List (Byte × Byte)
  /-- `CHUNK_MAX`; `none` is unbounded. FEED takes any length (00 R7, log entry 12). -/
  chunkMax : Option Nat
deriving DecidableEq, Repr

/-- `BUF_MAX`, the overflow bound of the accumulation buffer, in bytes (00 R7: 2048). -/
def bufMax : Nat := 2048

/-- TI's field sizes: 20 positions of at most 16 bytes for every kind (00 R7, 92 D4). -/
def FieldLimits.testInstance : FieldLimits where
  rmc := List.replicate 20 16
  gga := List.replicate 20 16
  gll := List.replicate 20 16
  gsa := List.replicate 20 16
  gsv := List.replicate 20 16
  vtg := List.replicate 20 16
  gst := List.replicate 20 16
  grs := List.replicate 20 16
  zda := List.replicate 20 16

/-- The spec's test instance TI (00 R7, 92 D4): values for worked examples only, no claim about a device. -/
def Config.testInstance : Config where
  magic0 := 0xB5
  magic1 := 0x62
  grpResp := 0x05
  subAck := 0x01
  subNak := 0x00
  grpCfg := 0x06
  subRateSet := 0x01
  subRateQuery := 0x01
  subRateResp := 0x01
  fieldLimits := FieldLimits.testInstance
  fieldPolicy := .reject
  retainLoneMagic0 := true
  invalidTargets := []
  chunkMax := none

end Sys2Proof
end

