-- ==== Sys2Proof/Syntax.lean ====
section
/-!
DEFINITION. The block's "instructions" (spec 30): one constructor per row of spec/opcode_table.json, with the operands
the row's encoding leaves free. Bytes that an encoding fixes (markers, lengths, checksums, terminators) are no
operands: the decoder checks them and the encoder writes them.
-/

namespace Sys2Proof

/-- The 32 rows of the opcode table. -/
inductive Instr where
  /-- NMEA_RMC, tag `RMC`. In this and the next eight: the two talker bytes, and the bytes after the tag up to the
  checksum's `'*'` (30 R61, R69). -/
  | nmeaRmc (talker0 talker1 : Byte) (data : Bytes)
  /-- NMEA_GGA, tag `GGA`. -/
  | nmeaGga (talker0 talker1 : Byte) (data : Bytes)
  /-- NMEA_GLL, tag `GLL`. -/
  | nmeaGll (talker0 talker1 : Byte) (data : Bytes)
  /-- NMEA_GSA, tag `GSA`. -/
  | nmeaGsa (talker0 talker1 : Byte) (data : Bytes)
  /-- NMEA_GSV, tag `GSV`. -/
  | nmeaGsv (talker0 talker1 : Byte) (data : Bytes)
  /-- NMEA_VTG, tag `VTG`. -/
  | nmeaVtg (talker0 talker1 : Byte) (data : Bytes)
  /-- NMEA_GST, tag `GST`. -/
  | nmeaGst (talker0 talker1 : Byte) (data : Bytes)
  /-- NMEA_GRS, tag `GRS`. -/
  | nmeaGrs (talker0 talker1 : Byte) (data : Bytes)
  /-- NMEA_ZDA, tag `ZDA`. -/
  | nmeaZda (talker0 talker1 : Byte) (data : Bytes)
  /-- NMEA_UNKNOWN: a validated sentence with another tag, or with a body too short for one. The body is every byte
  strictly between `'$'` and the checksum's `'*'` (30 R69, 41 R123). -/
  | nmeaUnknown (body : Bytes)
  /-- BIN_ACK: a valid frame of (`GRP_RESP`, `SUB_ACK`) with `N ≥ 2` (30 R68). -/
  | binAck (payload : Bytes)
  /-- BIN_NAK: a valid frame of (`GRP_RESP`, `SUB_NAK`) with `N ≥ 2` (30 R68). -/
  | binNak (payload : Bytes)
  /-- BIN_RATE_RESP: a valid frame of (`GRP_CFG`, `SUB_RATE_RESP`) with `N ≥ 3` (30 R68). -/
  | binRateResp (payload : Bytes)
  /-- BIN_UNHANDLED: any other valid frame (30 R68). -/
  | binUnhandled (group sub : Byte) (payload : Bytes)
  /-- BIN_BAD_CHECKSUM: a complete frame whose checksum bytes are not those of its contents (42 R155). -/
  | binBadChecksum (group sub : Byte) (payload : Bytes) (ckA ckB : Byte)
  /-- NOISE: one discarded byte (44 R185). -/
  | noise (byte : Byte)
  /-- SET_RATE: the outbound set-rate frame (30 R71). -/
  | setRate (tg ts rate : Byte)
  /-- QUERY_RATE: the outbound query-rate frame (30 R72). -/
  | queryRate (tg ts : Byte)
  /-- FEED, op 0x01 (45 R218). -/
  | feed (chunk : Bytes)
  /-- LATEST, op 0x02, with a kind code (45 R219). -/
  | latest (code : Byte)
  /-- GET_RATE, op 0x03 (45 R220). -/
  | getRate (group sub : Byte)
  /-- BUILD_SET_RATE, op 0x04 (45 R221). -/
  | buildSetRate (tg ts rate : Byte)
  /-- BUILD_QUERY_RATE, op 0x05 (45 R222). -/
  | buildQueryRate (tg ts : Byte)
  /-- PARSE_FRAME, op 0x06 (45 R223). -/
  | parseFrame (bytes : Bytes)
  /-- CLASSIFY, op 0x07 (45 R224). -/
  | classify (text : Bytes)
  /-- VALIDATE_NMEA, op 0x08 (45 R225). -/
  | validateNmea (text : Bytes)
  /-- PARSE_NMEA, op 0x09 (45 R226). -/
  | parseNmea (text : Bytes)
  /-- XOR_SUM, op 0x0A (45 R227). -/
  | xorSum (bytes : Bytes)
  /-- RUN_SUM, op 0x0B (45 R228). -/
  | runSum (bytes : Bytes)
  /-- BUF_LEN, op 0x0C (45 R229). -/
  | bufLen
  /-- RESET, op 0x0D (70 R271). -/
  | reset
  /-- ILLEGAL_REQUEST: any other op code, with whatever bytes follow it (30 R74). -/
  | illegalRequest (op : Byte) (args : Bytes)
deriving DecidableEq, Repr

/-- The three directions of the opcode table: read from the buffer, written to the sink, or requested by a host. -/
inductive Channel where
  | inbound
  | outbound
  | host
deriving DecidableEq, Repr

/-- The direction of an instruction's row (spec/opcode_table.json, `direction`). -/
def Instr.channel : Instr → Channel
  | .nmeaRmc _ _ _ => .inbound
  | .nmeaGga _ _ _ => .inbound
  | .nmeaGll _ _ _ => .inbound
  | .nmeaGsa _ _ _ => .inbound
  | .nmeaGsv _ _ _ => .inbound
  | .nmeaVtg _ _ _ => .inbound
  | .nmeaGst _ _ _ => .inbound
  | .nmeaGrs _ _ _ => .inbound
  | .nmeaZda _ _ _ => .inbound
  | .nmeaUnknown _ => .inbound
  | .binAck _ => .inbound
  | .binNak _ => .inbound
  | .binRateResp _ => .inbound
  | .binUnhandled _ _ _ => .inbound
  | .binBadChecksum _ _ _ _ _ => .inbound
  | .noise _ => .inbound
  | .setRate _ _ _ => .outbound
  | .queryRate _ _ => .outbound
  | .feed _ => .host
  | .latest _ => .host
  | .getRate _ _ => .host
  | .buildSetRate _ _ _ => .host
  | .buildQueryRate _ _ => .host
  | .parseFrame _ => .host
  | .classify _ => .host
  | .validateNmea _ => .host
  | .parseNmea _ => .host
  | .xorSum _ => .host
  | .runSum _ => .host
  | .bufLen => .host
  | .reset => .host
  | .illegalRequest _ _ => .host

end Sys2Proof
end

