-- ==== Sys2Proof/Machine/Checksum.lean ====
section
/-!
DEFINITION. The two checksum engines (spec 40, R100 to R104) and the NMEA checksum check (R105), as pure functions of
bytes, with the slices they are taken over (00 R9).
-/

namespace Sys2Proof.Machine

/-- `b[i:j]`, the half-open slice of elements `i .. j-1`; empty when `j ≤ i` (00 R9). -/
def slice (b : Bytes) (i j : Nat) : Bytes := (b.drop i).take (j - i)

/-- `b[i]`, read only where `i < |b|` (20 R41); past the end it answers 0, and no rule reads there. -/
def byteAt (b : Bytes) (i : Nat) : Byte := b.getD i 0

/-- The XOR engine's loop from accumulator `c` (40 R100). -/
def xorSumFrom (c : Byte) : Bytes → Byte
  | [] => c
  | b :: bs => xorSumFrom (c ^^^ b) bs

/-- XorSum, the NMEA XOR checksum (40 R100); the accumulator starts at 0. -/
def xorSum (b : Bytes) : Byte := xorSumFrom 0 b

/-- `HEX(v)`: the uppercase hex digit of a nibble (40 R101). -/
def hexDigit (v : BitVec 4) : Byte :=
  if v ≤ 9 then 0x30 + v.setWidth 8 else 0x41 + (v.setWidth 8 - 10)

/-- `HexUpper(c)`: a checksum byte as two uppercase hex digits, most significant first (40 R101). -/
def hexUpper (c : Byte) : Bytes := [hexDigit (c.extractLsb' 4 4), hexDigit (c.extractLsb' 0 4)]

/-- The running-sum engine's loop from accumulators `chk1`, `chk2`; carries out of 8 bits are discarded (40 R102). -/
def runSumFrom (chk1 chk2 : Byte) : Bytes → Byte × Byte
  | [] => (chk1, chk2)
  | b :: bs => runSumFrom (chk1 + b) (chk2 + (chk1 + b)) bs

/-- RunSum, the binary running-sum checksum `(chk1, chk2)`; both accumulators start at 0 (40 R102). -/
def runSum (b : Bytes) : Byte × Byte := runSumFrom 0 0 b

/-- Two bytes as one 16-bit number, the first the low byte (20 R43, 40 R103). -/
def littleEndian (low high : Byte) : BitVec 16 := low.setWidth 16 ||| (high.setWidth 16 <<< 8)

/-- RunSum16: the two accumulators as one 16-bit checksum (40 R103). -/
def runSum16 (b : Bytes) : BitVec 16 := littleEndian (runSum b).1 (runSum b).2

/-- `text` without one trailing CR LF (40 R105). -/
def stripCrLf (text : Bytes) : Bytes :=
  if 2 ≤ text.length ∧ byteAt text (text.length - 2) = cr ∧ byteAt text (text.length - 1) = lf then
    text.take (text.length - 2)
  else text

/-- `t[1 : |t|-3]`: the bytes strictly between `'$'` and the checksum's `'*'`, for text `t` without CR LF
(30 R63, 41 R123). -/
def sentenceBody (t : Bytes) : Bytes := slice t 1 (t.length - 3)

/-- ValidateNmea, the NMEA checksum check, in its order of checks (40 R105). -/
def validateNmea (text : Bytes) : Bool :=
  let t := stripCrLf text
  if t.length < 4 then false
  else if byteAt t 0 ≠ dollar then false
  else if byteAt t (t.length - 3) ≠ star then false
  else slice t (t.length - 2) t.length == hexUpper (xorSum (sentenceBody t))

end Sys2Proof.Machine
end

