-- ==== Sys2Proof/Machine/Operands.lean ====
section
/-!
DEFINITION. The operand forms: tags and kind codes (spec 30, R69), the split of a sentence body into fields (R63,
41 R124), the search for CR LF (44 R183), the payload length of a frame (30 R65), and the parameters an operand is
checked against (00 R7).
-/

namespace Sys2Proof.Machine

/-- The nine kinds in the order of their codes (30 R69). -/
def allKinds : List Kind := [.rmc, .gga, .gll, .gsa, .gsv, .vtg, .gst, .grs, .zda]

/-- The three tag bytes of a kind (30 R69). -/
def kindTag : Kind → Bytes
  | .rmc => [0x52, 0x4D, 0x43]
  | .gga => [0x47, 0x47, 0x41]
  | .gll => [0x47, 0x4C, 0x4C]
  | .gsa => [0x47, 0x53, 0x41]
  | .gsv => [0x47, 0x53, 0x56]
  | .vtg => [0x56, 0x54, 0x47]
  | .gst => [0x47, 0x53, 0x54]
  | .grs => [0x47, 0x52, 0x53]
  | .zda => [0x5A, 0x44, 0x41]

/-- The kind a tag names, byte for byte; `none` is the spec's `Unknown` (30 R69). -/
def kindOfTag (tag : Bytes) : Option Kind := allKinds.find? fun k => kindTag k == tag

/-- The kind code of a classification result: 0..8, and 9 for `Unknown` (30 R69). -/
def kindCode : Option Kind → Byte
  | some .rmc => 0
  | some .gga => 1
  | some .gll => 2
  | some .gsa => 3
  | some .gsv => 4
  | some .vtg => 5
  | some .gst => 6
  | some .grs => 7
  | some .zda => 8
  | none => 9

/-- The classification result a kind code names; `none` for a code above 9, which is no kind code (30 R69, R74). -/
def kindOfCode (code : Byte) : Option (Option Kind) :=
  if code ≤ 9 then some (allKinds[code.toNat]?) else none

/-- Does the kind have a snapshot slot? `SLOT_KINDS` of 10 R24. -/
def hasSlot : Kind → Bool
  | .rmc => true
  | .gga => true
  | .gll => true
  | .gsa => true
  | .gsv => true
  | .vtg => true
  | .gst => false
  | .grs => false
  | .zda => false

/-- Classify: the kind of a text by the tag at offsets 3..5 alone (41 R120). -/
def classify (text : Bytes) : Option Kind :=
  if text.length < 6 ∨ byteAt text 0 ≠ dollar then none else kindOfTag (slice text 3 6)

/-- `split(body, ',')`: cut at every comma; consecutive commas give empty elements (41 R124). -/
def splitCommas : Bytes → List Bytes
  | [] => [[]]
  | b :: bs =>
    if b = comma then [] :: splitCommas bs
    else
      match splitCommas bs with
      | [] => [[b]]
      | f :: fs => (b :: f) :: fs

/-- The bytes before the first CR LF pair, if there is one: the search of 44 R183, which looks past every other
marker. -/
def beforeCrLf : Bytes → Option Bytes
  | [] => none
  | b :: bs =>
    if b = cr ∧ bs.head? = some lf then some []
    else (beforeCrLf bs).map (b :: ·)

/-- `N`, the payload length: `zext_16(b[4]) | (zext_16(b[5]) << 8)` (30 R65). -/
def payloadLength (b : Bytes) : Nat := (littleEndian (byteAt b 4) (byteAt b 5)).toNat

/-- `T = 8 + N`, the total length of a frame with payload length `n` (30 R65); it does not wrap (00 R11). -/
def frameLength (n : Nat) : Nat := 8 + n

/-- The two length bytes of a payload, low byte first (30 R64, R65). -/
def lengthBytes (payload : Bytes) : Bytes :=
  [BitVec.ofNat 8 payload.length, BitVec.ofNat 8 (payload.length / 256)]

/-- No CR LF pair stands in the bytes. -/
def noCrLf (b : Bytes) : Bool := beforeCrLf b == none

/-- The (group, sub, N) of a frame that the first three rows of the dispatch map leave over (30 R68). -/
def isUnhandledKey (cfg : Config) (group sub : Byte) (n : Nat) : Bool :=
  !(group == cfg.grpResp && sub == cfg.subAck && decide (2 ≤ n))
  && !(group == cfg.grpResp && sub == cfg.subNak && decide (2 ≤ n))
  && !(group == cfg.grpCfg && sub == cfg.subRateResp && decide (3 ≤ n))

/-- The bytes a frame's checksum covers: group id through the end of the payload (30 R66, 40 R104). -/
def frameContents (group sub : Byte) (payload : Bytes) : Bytes :=
  group :: sub :: (lengthBytes payload ++ payload)

/-- The declared maxima `FIELD_MAX(k, 1), FIELD_MAX(k, 2), …` of a kind's fields (00 R7). -/
def fieldMaxima (cfg : Config) : Kind → List Nat
  | .rmc => cfg.fieldLimits.rmc
  | .gga => cfg.fieldLimits.gga
  | .gll => cfg.fieldLimits.gll
  | .gsa => cfg.fieldLimits.gsa
  | .gsv => cfg.fieldLimits.gsv
  | .vtg => cfg.fieldLimits.vtg
  | .gst => cfg.fieldLimits.gst
  | .grs => cfg.fieldLimits.grs
  | .zda => cfg.fieldLimits.zda

/-- `FIELD_COUNT(k)` (00 R7). -/
def fieldCount (cfg : Config) (k : Kind) : Nat := (fieldMaxima cfg k).length

/-- `FIELD_MAX(k, i)` for a position `1 ≤ i ≤ FIELD_COUNT(k)` (00 R7). -/
def fieldMax (cfg : Config) (k : Kind) (i : Nat) : Nat := (fieldMaxima cfg k).getD (i - 1) 0

/-- `TARGET_VALID(tg, ts)` (43 R172). -/
def targetValid (cfg : Config) (tg ts : Byte) : Bool := !cfg.invalidTargets.contains (tg, ts)

end Sys2Proof.Machine
end

