-- ==== Sys2Proof/WellFormed.lean ====
section
/-!
DEFINITION. Which parameter values are an instance of the block (spec 00, R8), and which operands an instruction's
encoding admits (spec 30).
-/

namespace Sys2Proof

open Sys2Proof.Machine

/-- The constraints of 00 R8: (a) `MAGIC0 ≠ '$'`; (b) the three dispatch keys are distinct; (c) every field position
the source names is stored; (d) every declared maximum is at least 1. -/
def Config.meetsConstraints (cfg : Config) : Bool :=
  cfg.magic0 != dollar
  && ((cfg.grpResp, cfg.subAck) != (cfg.grpResp, cfg.subNak)
    && (cfg.grpResp, cfg.subAck) != (cfg.grpCfg, cfg.subRateResp)
    && (cfg.grpResp, cfg.subNak) != (cfg.grpCfg, cfg.subRateResp))
  && (decide (9 ≤ fieldCount cfg .rmc) && decide (11 ≤ fieldCount cfg .gga))
  && allKinds.all fun k => (fieldMaxima cfg k).all fun m => decide (1 ≤ m)

/-- The query-rate frame does not have the key of ACK or of NAK. DEDUCED (log entry 23): 43 R171 makes its event UNHANDLED in
every instance, and 42 R156 makes every frame of 2 payload bytes with such a key an ACK or NAK. Both hold only where the
keys differ. -/
def Config.queryKeyIsOwn (cfg : Config) : Bool :=
  (cfg.grpCfg, cfg.subRateQuery) != (cfg.grpResp, cfg.subAck)
  && (cfg.grpCfg, cfg.subRateQuery) != (cfg.grpResp, cfg.subNak)

/-- A valid instance: the constraints of 00 R8, and the one that 43 R171 and 42 R156 imply together. -/
def Config.valid (cfg : Config) : Bool := cfg.meetsConstraints && cfg.queryKeyIsOwn

/-- The payload length fits its two bytes (30 R65). -/
def payloadFits (payload : Bytes) : Bool := decide (payload.length ≤ 65535)

/-- A sentence of a kind: the bytes between `'$'` and `'*'` hold no CR LF, so that the candidate span ends where the
sentence does (30 R67). -/
def sentenceWf (k : Kind) (talker0 talker1 : Byte) (data : Bytes) : Bool :=
  noCrLf (talker0 :: talker1 :: (kindTag k ++ data))

/-- The operands an encoding of spec 30 admits, per constructor. A noise byte is never `'$'`; whether `MAGIC0` is noise
depends on the byte after it (30 R60, 44 R185). The builder makes no frame for a refused target (43 R170, R171). -/
def Instr.wellFormed (cfg : Config) : Instr → Bool
  | .nmeaRmc a b data => sentenceWf .rmc a b data
  | .nmeaGga a b data => sentenceWf .gga a b data
  | .nmeaGll a b data => sentenceWf .gll a b data
  | .nmeaGsa a b data => sentenceWf .gsa a b data
  | .nmeaGsv a b data => sentenceWf .gsv a b data
  | .nmeaVtg a b data => sentenceWf .vtg a b data
  | .nmeaGst a b data => sentenceWf .gst a b data
  | .nmeaGrs a b data => sentenceWf .grs a b data
  | .nmeaZda a b data => sentenceWf .zda a b data
  | .nmeaUnknown body => noCrLf body && kindOfTag (slice body 2 5) == none
  | .binAck payload => payloadFits payload && decide (2 ≤ payload.length)
  | .binNak payload => payloadFits payload && decide (2 ≤ payload.length)
  | .binRateResp payload => payloadFits payload && decide (3 ≤ payload.length)
  | .binUnhandled g u payload => payloadFits payload && isUnhandledKey cfg g u payload.length
  | .binBadChecksum g u payload ckA ckB =>
    payloadFits payload && (ckA, ckB) != Machine.runSum (frameContents g u payload)
  | .noise b => b != dollar
  | .setRate tg ts _ => targetValid cfg tg ts
  | .queryRate tg ts => targetValid cfg tg ts
  | .feed _ => true
  | .latest _ => true
  | .getRate _ _ => true
  | .buildSetRate _ _ _ => true
  | .buildQueryRate _ _ => true
  | .parseFrame _ => true
  | .classify _ => true
  | .validateNmea _ => true
  | .parseNmea _ => true
  | .xorSum _ => true
  | .runSum _ => true
  | .bufLen => true
  | .reset => true
  | .illegalRequest op _ => op == 0x00 || decide (0x0E ≤ op.toNat)

end Sys2Proof
end

