-- ==== Sys2Proof/Decode.lean ====
section
/-!
DEFINITION. The three decoders (the framer's read of the element at the scan position, spec 44 R182 to R185 with the
dispatch maps of spec 30 R68 and R69; the host request, 30 R73 and R74; the frame at the byte sink, 30 R71 and R72),
each total and rejecting by name, and after them the encoder, written from the layouts of spec 30.
-/

namespace Sys2Proof

open Sys2Proof.Machine

/-- Why the bytes at the scan position are no complete, valid element. -/
inductive ElementError where
  /-- No byte is left: the scan stops (44 R182). -/
  | exhausted
  /-- A `'$'` with no CR LF after it: the scan stops and the bytes are kept (44 R183). -/
  | unterminatedSentence
  /-- `MAGIC0` is the last byte and is kept: the scan stops (44 R184 (a)). -/
  | loneMagic0
  /-- A frame that is not all there: the scan stops and the bytes are kept (44 R184 (b), 42 R153, R154). -/
  | incompleteFrame
  /-- A candidate sentence of this many bytes, CR LF included, that ValidateNmea rejects (41 R122). -/
  | badSentence (length : Nat)
deriving DecidableEq, Repr

/-- Why the bytes of a request are no `(op, args)` of 30 R73. -/
inductive RequestError where
  /-- There is no op byte. -/
  | noOp
  /-- The argument bytes are not those the op takes. -/
  | wrongArguments (op : Byte)
deriving DecidableEq, Repr

/-- Why a frame at the byte sink is no output of the builder. -/
inductive OutboundError where
  /-- The bytes are neither a set-rate nor a query-rate frame of a target the builder accepts (30 R71, R72; 43 R170 to
  R172). -/
  | notBuilderOutput
deriving DecidableEq, Repr

/-- The row of the opcode table for a sentence of a known kind (30 R69). -/
def sentenceInstr (k : Kind) (talker0 talker1 : Byte) (data : Bytes) : Instr :=
  match k with
  | .rmc => .nmeaRmc talker0 talker1 data
  | .gga => .nmeaGga talker0 talker1 data
  | .gll => .nmeaGll talker0 talker1 data
  | .gsa => .nmeaGsa talker0 talker1 data
  | .gsv => .nmeaGsv talker0 talker1 data
  | .vtg => .nmeaVtg talker0 talker1 data
  | .gst => .nmeaGst talker0 talker1 data
  | .grs => .nmeaGrs talker0 talker1 data
  | .zda => .nmeaZda talker0 talker1 data

/-- The row of a validated candidate span, by its tag (30 R69). A span with a known tag always has a body of at least
five bytes, because a tag holds no `'*'`. -/
def decodeSpan (span : Bytes) : Instr :=
  match classify span, sentenceBody (stripCrLf span) with
  | some k, a :: b :: _ :: _ :: _ :: data => sentenceInstr k a b data
  | _, body => .nmeaUnknown body

/-- The NMEA candidate whose `'$'` has been read and whose later bytes are `rest` (44 R183). -/
def decodeSentence (rest : Bytes) : Except ElementError Instr :=
  match beforeCrLf rest with
  | none => .error .unterminatedSentence
  | some text =>
    let span := dollar :: (text ++ [cr, lf])
    if validateNmea span then .ok (decodeSpan span) else .error (.badSentence span.length)

/-- The row of a frame whose checksum is valid: the first matching row of the dispatch map (30 R68). -/
def dispatchInstr (cfg : Config) (group sub : Byte) (payload : Bytes) : Instr :=
  if group = cfg.grpResp ∧ sub = cfg.subAck ∧ 2 ≤ payload.length then .binAck payload
  else if group = cfg.grpResp ∧ sub = cfg.subNak ∧ 2 ≤ payload.length then .binNak payload
  else if group = cfg.grpCfg ∧ sub = cfg.subRateResp ∧ 3 ≤ payload.length then .binRateResp payload
  else .binUnhandled group sub payload

/-- The frame at the front of `b`, whose two magic bytes have been matched (30 R64 to R66, 42 R153 to R155). -/
def decodeFrame (cfg : Config) (b : Bytes) : Except ElementError Instr :=
  if b.length < 6 then .error .incompleteFrame
  else
    let n := payloadLength b
    if b.length < frameLength n then .error .incompleteFrame
    else
      let group := byteAt b 2
      let sub := byteAt b 3
      let payload := slice b 6 (6 + n)
      let ckA := byteAt b (6 + n)
      let ckB := byteAt b (7 + n)
      if (ckA, ckB) = Machine.runSum (slice b 2 (6 + n)) then .ok (dispatchInstr cfg group sub payload)
      else .ok (.binBadChecksum group sub payload ckA ckB)

/-- The element at the front of `b`, the buffer from the scan position on, in the order of tests of 44 R182. -/
def decodeElement (cfg : Config) (b : Bytes) : Except ElementError Instr :=
  match b with
  | [] => .error .exhausted
  | x :: rest =>
    if x = dollar then decodeSentence rest
    else if x = cfg.magic0 then
      match rest with
      | [] => if cfg.retainLoneMagic0 then .error .loneMagic0 else .ok (.noise x)
      | y :: _ => if y = cfg.magic1 then decodeFrame cfg b else .ok (.noise x)
    else .ok (.noise x)

/-- A request of one argument byte. -/
def oneByte (op : Byte) (f : Byte → Instr) (args : Bytes) : Except RequestError Instr :=
  match args with
  | [a] => .ok (f a)
  | _ => .error (.wrongArguments op)

/-- A request of two argument bytes. -/
def twoBytes (op : Byte) (f : Byte → Byte → Instr) (args : Bytes) : Except RequestError Instr :=
  match args with
  | [a, b] => .ok (f a b)
  | _ => .error (.wrongArguments op)

/-- A request of three argument bytes. -/
def threeBytes (op : Byte) (f : Byte → Byte → Byte → Instr) (args : Bytes) : Except RequestError Instr :=
  match args with
  | [a, b, c] => .ok (f a b c)
  | _ => .error (.wrongArguments op)

/-- A request without arguments. -/
def noBytes (op : Byte) (i : Instr) (args : Bytes) : Except RequestError Instr :=
  match args with
  | [] => .ok i
  | _ => .error (.wrongArguments op)

/-- A host request: the op byte and the argument bytes after it (30 R73, R74; log entry 7). -/
def decodeRequest (req : Bytes) : Except RequestError Instr :=
  match req with
  | [] => .error .noOp
  | op :: args =>
    match op.toNat with
    | 0x01 => .ok (.feed args)
    | 0x02 => oneByte op .latest args
    | 0x03 => twoBytes op .getRate args
    | 0x04 => threeBytes op .buildSetRate args
    | 0x05 => twoBytes op .buildQueryRate args
    | 0x06 => .ok (.parseFrame args)
    | 0x07 => .ok (.classify args)
    | 0x08 => .ok (.validateNmea args)
    | 0x09 => .ok (.parseNmea args)
    | 0x0A => .ok (.xorSum args)
    | 0x0B => .ok (.runSum args)
    | 0x0C => noBytes op .bufLen args
    | 0x0D => noBytes op .reset args
    | _ => .ok (.illegalRequest op args)

/-- A frame written to the byte sink: one of the two templates of 30 R71 and R72, unmodified, for a target that the builder
accepts (43 R172, 60 R258). -/
def decodeOutbound (cfg : Config) (f : Bytes) : Except OutboundError Instr :=
  match f with
  | [m0, m1, g, u, n0, n1, tg, ts, rate, c1, c2] =>
    if m0 = cfg.magic0 ∧ m1 = cfg.magic1 ∧ g = cfg.grpCfg ∧ u = cfg.subRateSet ∧ n0 = 0x03 ∧ n1 = 0x00
        ∧ (c1, c2) = Machine.runSum [g, u, n0, n1, tg, ts, rate] ∧ targetValid cfg tg ts then .ok (.setRate tg ts rate)
    else .error .notBuilderOutput
  | [m0, m1, g, u, n0, n1, tg, ts, c1, c2] =>
    if m0 = cfg.magic0 ∧ m1 = cfg.magic1 ∧ g = cfg.grpCfg ∧ u = cfg.subRateQuery ∧ n0 = 0x02 ∧ n1 = 0x00
        ∧ (c1, c2) = Machine.runSum [g, u, n0, n1, tg, ts] ∧ targetValid cfg tg ts then .ok (.queryRate tg ts)
    else .error .notBuilderOutput
  | _ => .error .notBuilderOutput

/-! ## The encoder -/

/-- `NMEA(body)`: `'$'`, the body, `'*'`, its checksum as two uppercase hex digits, CR LF (30 R61, R62, R76). -/
def encodeSentence (body : Bytes) : Bytes :=
  dollar :: (body ++ star :: (hexUpper (Machine.xorSum body) ++ [cr, lf]))

/-- A sentence of a kind: talker, tag and data fields between `'$'` and `'*'` (30 R61). -/
def encodeKind (k : Kind) (talker0 talker1 : Byte) (data : Bytes) : Bytes :=
  encodeSentence (talker0 :: talker1 :: (kindTag k ++ data))

/-- A frame with the given checksum bytes (30 R64). -/
def encodeFrameWith (cfg : Config) (group sub : Byte) (payload : Bytes) (ck : Byte × Byte) : Bytes :=
  cfg.magic0 :: cfg.magic1 :: (frameContents group sub payload ++ [ck.1, ck.2])

/-- `FRAME(G, S, p0 … pN-1)`: a frame with its own checksum (30 R64, R76). -/
def encodeFrame (cfg : Config) (group sub : Byte) (payload : Bytes) : Bytes :=
  encodeFrameWith cfg group sub payload (Machine.runSum (frameContents group sub payload))

/-- The bytes of an instruction: an inbound element, an outbound frame, or a request (30 R60 to R76). -/
def encode (cfg : Config) : Instr → Bytes
  | .nmeaRmc a b data => encodeKind .rmc a b data
  | .nmeaGga a b data => encodeKind .gga a b data
  | .nmeaGll a b data => encodeKind .gll a b data
  | .nmeaGsa a b data => encodeKind .gsa a b data
  | .nmeaGsv a b data => encodeKind .gsv a b data
  | .nmeaVtg a b data => encodeKind .vtg a b data
  | .nmeaGst a b data => encodeKind .gst a b data
  | .nmeaGrs a b data => encodeKind .grs a b data
  | .nmeaZda a b data => encodeKind .zda a b data
  | .nmeaUnknown body => encodeSentence body
  | .binAck payload => encodeFrame cfg cfg.grpResp cfg.subAck payload
  | .binNak payload => encodeFrame cfg cfg.grpResp cfg.subNak payload
  | .binRateResp payload => encodeFrame cfg cfg.grpCfg cfg.subRateResp payload
  | .binUnhandled g u payload => encodeFrame cfg g u payload
  | .binBadChecksum g u payload ckA ckB => encodeFrameWith cfg g u payload (ckA, ckB)
  | .noise b => [b]
  | .setRate tg ts rate => encodeFrame cfg cfg.grpCfg cfg.subRateSet [tg, ts, rate]
  | .queryRate tg ts => encodeFrame cfg cfg.grpCfg cfg.subRateQuery [tg, ts]
  | .feed chunk => 0x01 :: chunk
  | .latest code => [0x02, code]
  | .getRate g u => [0x03, g, u]
  | .buildSetRate tg ts rate => [0x04, tg, ts, rate]
  | .buildQueryRate tg ts => [0x05, tg, ts]
  | .parseFrame bytes => 0x06 :: bytes
  | .classify text => 0x07 :: text
  | .validateNmea text => 0x08 :: text
  | .parseNmea text => 0x09 :: text
  | .xorSum bytes => 0x0A :: bytes
  | .runSum bytes => 0x0B :: bytes
  | .bufLen => [0x0C]
  | .reset => [0x0D]
  | .illegalRequest op args => op :: args

/-- How many bytes a sentence with this body occupies: `'$'`, the body, `'*'`, two digits, CR LF (30 R61). -/
def sentenceLength (bodyLength : Nat) : Nat := bodyLength + 6

/-! ## The opcode table's numbering -/

/-- The `n` bytes of a table word. The table numbers a row's bytes with byte 0 the most significant
(`match_note` of spec/opcode_table.json; log entry 10). -/
def tableBytes (n w : Nat) : Bytes :=
  (List.range n).map fun i => BitVec.ofNat 8 (w >>> (8 * (n - 1 - i)))

/-- The direction of a table word's row: `'$'` and TI's `MAGIC0` start the inbound rows, of at most 32 bits in the table
where they are frames; the 48 bits of the two frame templates are the outbound rows; no bits at all is NOISE; every other
first byte is an op byte (log entry 10). -/
def wordChannel (nbits w : Nat) : Channel :=
  match tableBytes (nbits / 8) w with
  | [] => .inbound
  | x :: _ =>
    if x = dollar then .inbound
    else if x = Config.testInstance.magic0 then if nbits < 48 then .inbound else .outbound
    else .host

/-- How many argument bytes a request of fixed length takes after its op byte (30 R73); a byte sequence is empty. -/
def requestArity (op : Byte) : Nat :=
  if op = 0x02 then 1
  else if op = 0x03 then 2
  else if op = 0x04 then 3
  else if op = 0x05 then 2
  else 0

/-- The request of a table word: its bytes, and zeros for the argument bytes the word does not give. -/
def requestOfWord (nbits w : Nat) : Bytes :=
  let b := tableBytes (nbits / 8) w
  b ++ List.replicate (requestArity (byteAt b 0) - (b.length - 1)) 0

/-- The fewest payload bytes a frame of (group, sub) carries as an instruction of the dispatch map's own row (30 R68). -/
def leastPayload (cfg : Config) (group sub : Byte) : Nat :=
  if group = cfg.grpResp ∧ (sub = cfg.subAck ∨ sub = cfg.subNak) then 2
  else if group = cfg.grpCfg ∧ sub = cfg.subRateResp then 3
  else 0

/-- The bytes of a table word with the rest of its element or frame (log entry 10). An operand byte that the word does not
give is zero, as many as the length bytes say or, without them, as the row needs; the bytes that are no operand (`'*'`, a
checksum, CR LF, a payload length) are as the encoding makes them (30 R61 to R66). A word that gives the whole element is
taken as it is. -/
def elementOfWord (nbits w : Nat) : Bytes :=
  let cfg := Config.testInstance
  match tableBytes (nbits / 8) w with
  | [] => [0]
  | x :: rest =>
    let b := x :: rest
    if x = dollar then
      match beforeCrLf rest with
      | some _ => b
      | none => encodeSentence rest
    else if x = cfg.magic0 ∧ byteAt b 1 = cfg.magic1 then
      let group := byteAt b 2
      let sub := byteAt b 3
      let n := if b.length < 6 then leastPayload cfg group sub else payloadLength b
      if frameLength n ≤ b.length then b
      else encodeFrame cfg group sub ((b.drop 6).take n ++ List.replicate (n - (b.length - 6)) 0)
    else b

/-- The instruction the decoder reads from a table word, for the test instance TI that the table's words are written
in. -/
def decodeTableWord (nbits w : Nat) : Option Instr :=
  match wordChannel nbits w with
  | .host => (decodeRequest (requestOfWord nbits w)).toOption
  | .outbound => (decodeOutbound Config.testInstance (elementOfWord nbits w)).toOption
  | .inbound => (decodeElement Config.testInstance (elementOfWord nbits w)).toOption

end Sys2Proof
end

