-- ==== Sys2Proof/Machine/State.lean ====
section
/-!
DEFINITION. The state of the block as plain data (spec 10), the value formats it holds (R31, R32; 60 R241), the
responses and requests at its ports (30 R73), its faults and refusals, and the state after reset (70 R270).
-/

namespace Sys2Proof.Machine

/-- An NMEA record `(kind, talker, F)`: `fields[i - 1]` is `F[i]`, `none` where the field was empty or missing
(10 R31). -/
structure Record where
  kind : Kind
  talker : Byte × Byte
  fields : List (Option Bytes)
deriving DecidableEq, Repr

/-- An event of `OUT` (10 R32). The kind of an NMEA event is its record's. -/
inductive Event where
  | nmea (record : Record)
  | ack (tg ts : Byte)
  | nak (tg ts : Byte)
  | rate (tg ts rate : Byte)
  | unhandled (group sub : Byte) (payload : Bytes)
deriving DecidableEq, Repr

/-- Which protocol a CHECKSUM_MISMATCH is about (60 R241). -/
inductive MessageSource where
  | nmea
  | bin
deriving DecidableEq, Repr

/-- An error code with the info it records (60 R241): a `DIAG` record, or the error of a response. -/
inductive ErrorRecord where
  /-- Code 3: `(NMEA, span length)` or `(BIN, T)`. -/
  | checksumMismatch (source : MessageSource) (length : Nat)
  /-- Code 4: the number of bytes discarded. -/
  | bufferOverflow (discarded : Nat)
  /-- Code 5: the tag bytes `text[3 : min(6, |text|)]`. -/
  | unrecognizedKind (tag : Bytes)
  /-- Code 6: kind and position of the first field that is too long. -/
  | fieldOverflow (kind : Kind) (position : Nat)
  /-- Code 7: the target refused. -/
  | invalidTarget (tg ts : Byte)
  /-- Code 8: the op code. -/
  | illegalRequest (op : Byte)
deriving DecidableEq, Repr

/-- The status of a ParseFrame result (42 R150). -/
inductive FrameStatus where
  | ok
  | incomplete
  | badMagic
  | checksumMismatch
deriving DecidableEq, Repr

/-- The triple `(consumed, status, event)` of ParseFrame (42 R150). -/
structure FrameResult where
  consumed : Nat
  status : FrameStatus
  event : Option Event
deriving DecidableEq, Repr

/-- The `result` of a response; each op returns one form (30 R73). -/
inductive Result where
  /-- No result. -/
  | empty
  /-- LATEST and PARSE_NMEA. -/
  | record (r : Option Record)
  /-- GET_RATE. -/
  | rate (r : Option Byte)
  /-- BUILD_SET_RATE (11 bytes) and BUILD_QUERY_RATE (10 bytes). -/
  | frame (b : Bytes)
  /-- PARSE_FRAME. -/
  | parsed (r : FrameResult)
  /-- CLASSIFY: the kind code. -/
  | kind (code : Byte)
  /-- VALIDATE_NMEA. -/
  | bit (b : Bool)
  /-- XOR_SUM. -/
  | byte (b : Byte)
  /-- RUN_SUM. -/
  | word (w : BitVec 16)
  /-- BUF_LEN. -/
  | natural (n : Nat)
deriving DecidableEq, Repr

/-- A response `(err, result)`; no error is `OK` (30 R73). -/
structure Response where
  error : Option ErrorRecord
  result : Result
deriving DecidableEq, Repr

/-- The six snapshot slots (10 R24). -/
structure Snapshots where
  rmc : Option Record
  gga : Option Record
  gll : Option Record
  vtg : Option Record
  gsa : Option Record
  gsv : Option Record
deriving DecidableEq, Repr

/-- Where the framer agent stands in the FEED it runs, and the cursor while there is one (44 R180, 10 R23). -/
inductive Framer where
  /-- No FEED is running. -/
  | idle
  /-- A FEED has been accepted; APPEND comes next (44 R181). -/
  | append (chunk : Bytes)
  /-- The scan stands at cursor `pos` (44 R182). -/
  | scan (pos : Nat)
  /-- The scan has stopped at `pos`; COMPACT comes next (44 R188). -/
  | compact (pos : Nat)
  /-- BOUND comes next (44 R189). -/
  | bound
deriving DecidableEq, Repr

/-- The roles in which hosts issue transactions (60 R258 (2) to (4)). The block does not tell hosts apart, and nothing it
does depends on the role; the role says which path a FEED comes from, a duty of the hosts (log entries 3 and 4). -/
inductive Agent where
  | feedingHost
  | readingHost
  | commandHost
deriving DecidableEq, Repr

/-- One entry of the order in which the block meets its agents (log entry 2). -/
inductive Turn where
  /-- The framer agent takes one internal step. -/
  | framer
  /-- A host issues a transaction (30 R73). -/
  | request (agent : Agent) (req : Bytes)
  /-- The command host writes bytes to the byte sink (60 R258). -/
  | transmit (frame : Bytes)
deriving DecidableEq, Repr

/-- A byte store by numeric key, strictly rising in the key; a key that is not listed reads `None` (10 R25, R33). The
block's only keyed byte store is `RATE`. -/
abbrev Memory := List Host.Cell

/-- The state of the block and of its ports. The first six fields below `cfg` are the spec's whole architectural state
(10 R20); `framer` is the FEED in progress; the others are the model's own (INVENTORY.md, State). -/
structure State where
  /-- The parameters of this instance (00 R7); no step changes them. -/
  cfg : Config
  /-- `BUF` (10 R21). -/
  buf : Bytes
  /-- `SNAP` (10 R24). -/
  snap : Snapshots
  /-- `RATE` (10 R25), keyed by `g * 256 + s`. -/
  rate : Memory
  /-- `OUT` (10 R26). -/
  out : List Event
  /-- `DIAG` (10 R27). -/
  diag : List ErrorRecord
  /-- `BUSY` (10 R28). -/
  busy : Bool
  /-- The FEED in progress, with the scan cursor `pos` (10 R23, 44 R180). -/
  framer : Framer
  /-- What the agents do next (model's own). -/
  turns : List Turn
  /-- The responses returned so far (model's own). -/
  responses : List Response
  /-- The frames handed to the byte sink so far (model's own). -/
  sink : List Bytes
deriving DecidableEq, Repr

/-- A step never faults: the block has no trap and no fault state (60 R240, 44 R196, 92 D35). -/
inductive Fault where
deriving DecidableEq, Repr

/-- Why the model has no move. -/
inductive Refusal where
  /-- Raised by `exec` alone, for a row without a meaning. Safe: nothing is claimed of it. -/
  | notModelled (mnemonic : String)
  /-- Raised by `step` for a request whose bytes are no `(op, args)` of 30 R73 (log entry 8). Safe. -/
  | malformedRequest (why : RequestError)
  /-- Raised by `step` for a FEED from another host than the feeding host: a broken duty, for which the spec's model has no
  move (60 R258, 93 section 2; log entry 4). Safe. -/
  | secondFeedingPath
  /-- Raised by `step` for bytes at the sink that are no unmodified builder output, and by SET_RATE and QUERY_RATE for a
  target the builder refuses: there is no such output (60 R249, R258; log entry 6). Safe. -/
  | notBuilderOutput
deriving DecidableEq, Repr

/-- Every slot `None` (70 R270). -/
def Snapshots.reset : Snapshots where
  rmc := none
  gga := none
  gll := none
  vtg := none
  gsa := none
  gsv := none

/-- The start-up state of the instance with parameters `cfg` (70 R270, R272), nothing yet at its ports. -/
def State.start (cfg : Config) : State where
  cfg := cfg
  buf := []
  snap := Snapshots.reset
  rate := []
  out := []
  diag := []
  busy := false
  framer := .idle
  turns := []
  responses := []
  sink := []

/-- The state after reset (70 R270), of the test instance TI (log entry 1). -/
def State.reset : State := State.start Config.testInstance

end Sys2Proof.Machine
end

