-- ==== Sys2Proof/Machine/Flags.lean ====
section
/-!
DEFINITION. The block's only flag, `BUSY` (spec 10, R28, R30): how it is set, cleared and waited for.
-/

namespace Sys2Proof.Machine

/-- `BUSY <- 1`: a FEED has been accepted and the framer's first step, APPEND, is due (10 R28, 45 R218). -/
def startFeed (chunk : Bytes) (s : State) : State := { s with busy := true, framer := .append chunk }

/-- `BUSY <- 0`: the FEED is over (10 R28, 44 R189). -/
def endFeed (s : State) : State := { s with busy := false, framer := .idle }

/-- The transactions that wait until `BUSY = 0`: FEED (45 R218), BUF_LEN (45 R229) and RESET (70 R271). Every other
instruction runs whatever `BUSY` is (45 R217). -/
def waitsForIdle : Instr → Bool
  | .nmeaRmc _ _ _ => false
  | .nmeaGga _ _ _ => false
  | .nmeaGll _ _ _ => false
  | .nmeaGsa _ _ _ => false
  | .nmeaGsv _ _ _ => false
  | .nmeaVtg _ _ _ => false
  | .nmeaGst _ _ _ => false
  | .nmeaGrs _ _ _ => false
  | .nmeaZda _ _ _ => false
  | .nmeaUnknown _ => false
  | .binAck _ => false
  | .binNak _ => false
  | .binRateResp _ => false
  | .binUnhandled _ _ _ => false
  | .binBadChecksum _ _ _ _ _ => false
  | .noise _ => false
  | .setRate _ _ _ => false
  | .queryRate _ _ => false
  | .feed _ => true
  | .latest _ => false
  | .getRate _ _ => false
  | .buildSetRate _ _ _ => false
  | .buildQueryRate _ _ => false
  | .parseFrame _ => false
  | .classify _ => false
  | .validateNmea _ => false
  | .parseNmea _ => false
  | .xorSum _ => false
  | .runSum _ => false
  | .bufLen => true
  | .reset => true
  | .illegalRequest _ _ => false

/-- Is the transaction held at this moment? While `BUSY = 1`, one that waits for `BUSY = 0` is; every other transaction
runs at any time, whoever issues it (10 R28, 45 R217). -/
def isHeld (i : Instr) (s : State) : Bool := s.busy && waitsForIdle i

end Sys2Proof.Machine
end

