-- ==== Sys2Proof/Machine/Ops.lean ====
section
/-!
DEFINITION. The shared operations: the keyed store and its four operations (spec 45, R210 to R216), the three accesses
to BUF (20 R41), `emit` and `diag` (00 R10), the scan cursor (10 R23), responses (30 R73) and the error codes (60 R241).
Reporting an error is `logDiag` or `respondError` (60 R240): the block has no trap to take and none to return from (R253, R254).
-/

namespace Sys2Proof.Machine

/-- What a key reads as: the byte listed for it, else `None`. -/
def Memory.read (m : Memory) (a : Nat) : Option Byte :=
  match m with
  | [] => none
  | (b, v) :: rest => if a = b then some v else Memory.read rest a

/-- Write a byte at a key, keeping the keys strictly rising. -/
def Memory.write (m : Memory) (a : Nat) (v : Byte) : Memory :=
  match m with
  | [] => [(a, v)]
  | (b, w) :: rest =>
    if a < b then (a, v) :: (b, w) :: rest
    else if a = b then (a, v) :: rest
    else (b, w) :: Memory.write rest a v

/-- Every key of the store is above `a`. -/
def Memory.above (a : Nat) (m : Memory) : Bool := m.all fun c => decide (a < c.1)

/-- The canonical form: keys strictly rising, each a 16-bit key (20 R40). -/
def Memory.wf (m : Memory) : Bool :=
  match m with
  | [] => true
  | (a, _) :: rest => decide (a < 65536) && Memory.above a rest && Memory.wf rest

/-- The 16-bit sentence id of the pair `(g, s)` (10 R25). -/
def rateKey (group sub : Byte) : Nat := group.toNat * 256 + sub.toNat

/-- The slot of a kind; a kind without a slot has none (10 R24). -/
def Snapshots.get (t : Snapshots) : Kind → Option Record
  | .rmc => t.rmc
  | .gga => t.gga
  | .gll => t.gll
  | .gsa => t.gsa
  | .gsv => t.gsv
  | .vtg => t.vtg
  | .gst => none
  | .grs => none
  | .zda => none

/-- Replace the slot of a kind wholesale (45 R211); a kind without a slot has none to replace. -/
def Snapshots.set (t : Snapshots) (k : Kind) (r : Record) : Snapshots :=
  match k with
  | .rmc => { t with rmc := some r }
  | .gga => { t with gga := some r }
  | .gll => { t with gll := some r }
  | .gsa => { t with gsa := some r }
  | .gsv => { t with gsv := some r }
  | .vtg => { t with vtg := some r }
  | .gst => t
  | .grs => t
  | .zda => t

/-- `updateSnapshot(k, rec)` (45 R211). -/
def updateSnapshot (k : Kind) (r : Record) (s : State) : State := { s with snap := s.snap.set k r }

/-- `latest(k)`: a copy of the slot, and `None` for a kind without one, `Unknown` among them (45 R212). -/
def latestOf (k : Option Kind) (s : State) : Option Record :=
  match k with
  | some k => s.snap.get k
  | none => none

/-- `setRate((g, s), r)` (45 R213). -/
def setRateEntry (group sub rate : Byte) (s : State) : State :=
  { s with rate := Memory.write s.rate (rateKey group sub) rate }

/-- `getRate((g, s))` (45 R214). -/
def rateOf (group sub : Byte) (s : State) : Option Byte := Memory.read s.rate (rateKey group sub)

/-- `emit(e)`: append an event to `OUT` (00 R10). -/
def emit (e : Event) (s : State) : State := { s with out := s.out ++ [e] }

/-- `diag(c, info)`: append a record to `DIAG` (00 R10, 60 R240 (b)). -/
def logDiag (e : ErrorRecord) (s : State) : State := { s with diag := s.diag ++ [e] }

/-- The phase with its cursor moved forward; outside a scan there is no cursor to move (10 R23). -/
def advanceFramer (n : Nat) : Framer → Framer
  | .idle => .idle
  | .append chunk => .append chunk
  | .scan pos => .scan (pos + n)
  | .compact pos => .compact pos
  | .bound => .bound

/-- `pos <- pos + n` (44 R183 to R185). -/
def advance (n : Nat) (s : State) : State := { s with framer := advanceFramer n s.framer }

/-- The scan stops at `pos`; COMPACT follows (44 R182). -/
def stopScan (pos : Nat) (s : State) : State := { s with framer := .compact pos }

/-- `append(c)` on BUF (20 R41). -/
def appendBuf (chunk : Bytes) (s : State) : State := { s with buf := s.buf ++ chunk }

/-- `drop(p)` on BUF (20 R41). -/
def dropBuf (p : Nat) (s : State) : State := { s with buf := s.buf.drop p }

/-- `clear` on BUF (20 R41). -/
def clearBuf (s : State) : State := { s with buf := [] }

/-- The agents' next turn has been taken. -/
def takeTurn (s : State) : State := { s with turns := s.turns.tail }

/-- A response is returned. -/
def pushResponse (r : Response) (s : State) : State := { s with responses := s.responses ++ [r] }

/-- Respond `(OK, result)`; the transaction is complete (30 R73). -/
def respond (r : Result) (s : State) : State := pushResponse ⟨none, r⟩ (takeTurn s)

/-- Respond with an error code and no state written (00 R10 `raise`, 60 R240 (a)). -/
def respondError (e : ErrorRecord) (r : Result) (s : State) : State := pushResponse ⟨some e, r⟩ (takeTurn s)

/-- A frame goes to the byte sink unmodified (43 R173, 60 R258). -/
def transmit (frame : Bytes) (s : State) : State := { takeTurn s with sink := s.sink ++ [frame] }

/-- The start-up state put in place (70 R270, R271); the parameters are the instance's (00 R7) and the ports stay as
they are (log entry 15). -/
def resetBlock (s : State) : State :=
  { s with
    buf := []
    snap := Snapshots.reset
    rate := []
    out := []
    diag := []
    busy := false
    framer := .idle }

/-- The number of an error (60 R241). -/
def errorCode : ErrorRecord → Byte
  | .checksumMismatch _ _ => 3
  | .bufferOverflow _ => 4
  | .unrecognizedKind _ => 5
  | .fieldOverflow _ _ => 6
  | .invalidTarget _ _ => 7
  | .illegalRequest _ => 8

/-- The number of a ParseFrame status (60 R241). -/
def statusCode : FrameStatus → Byte
  | .ok => 0
  | .incomplete => 1
  | .badMagic => 2
  | .checksumMismatch => 3

/-- `err`, the 8-bit error code of a response; 0 is OK (30 R73, 60 R241). -/
def responseCode (r : Response) : Byte :=
  match r.error with
  | none => 0
  | some e => errorCode e

end Sys2Proof.Machine
end

