-- ==== Sys2Proof/Machine/Builder.lean ====
section
/-!
DEFINITION. The binary command builder (spec 43) and the meanings of the two outbound rows and the two build
transactions.
-/

namespace Sys2Proof.Machine

/-- A frame template with the two checksum bytes of its bytes `f[2:]` written after it (43 R170, R171). -/
def signFrame (f : Bytes) : Bytes := f ++ [(runSum (slice f 2 f.length)).1, (runSum (slice f 2 f.length)).2]

/-- The 11 bytes of BuildSetRate for an accepted target (30 R71, 43 R170). -/
def setRateFrame (cfg : Config) (tg ts rate : Byte) : Bytes :=
  signFrame [cfg.magic0, cfg.magic1, cfg.grpCfg, cfg.subRateSet, 0x03, 0x00, tg, ts, rate]

/-- The 10 bytes of BuildQueryRate for an accepted target (30 R72, 43 R171). -/
def queryRateFrame (cfg : Config) (tg ts : Byte) : Bytes :=
  signFrame [cfg.magic0, cfg.magic1, cfg.grpCfg, cfg.subRateQuery, 0x02, 0x00, tg, ts]

/-- BuildSetRate: the frame, or INVALID_TARGET (43 R170). -/
def buildSetRate (cfg : Config) (tg ts rate : Byte) : Except ErrorRecord Bytes :=
  if targetValid cfg tg ts then .ok (setRateFrame cfg tg ts rate) else .error (.invalidTarget tg ts)

/-- BuildQueryRate: the frame, or INVALID_TARGET (43 R171). -/
def buildQueryRate (cfg : Config) (tg ts : Byte) : Except ErrorRecord Bytes :=
  if targetValid cfg tg ts then .ok (queryRateFrame cfg tg ts) else .error (.invalidTarget tg ts)

/-- The builder's answer to the caller: the frame's bytes, or the error and no bytes (45 R221, R222; 60 R249). -/
def respondBuilt (r : Except ErrorRecord Bytes) (s : State) : State :=
  match r with
  | .ok frame => respond (.frame frame) s
  | .error e => respondError e .empty s

/-- The builder's output handed to the byte sink, which returns nothing (43 R173, 60 R258). For a refused target there is no
output, and the model has no move (60 R249; log entry 6). -/
def transmitBuilt (r : Except ErrorRecord Bytes) (s : State) : Host.Outcome State Fault Refusal :=
  match r with
  | .ok frame => .next (transmit frame s)
  | .error _ => .refused .notBuilderOutput

/-- SET_RATE: the set-rate frame goes out (30 R71, 43 R170, R173). -/
def execSetRate (tg ts rate : Byte) (s : State) : Host.Outcome State Fault Refusal :=
  transmitBuilt (buildSetRate s.cfg tg ts rate) s

/-- QUERY_RATE: the query-rate frame goes out (30 R72, 43 R171, R173). -/
def execQueryRate (tg ts : Byte) (s : State) : Host.Outcome State Fault Refusal :=
  transmitBuilt (buildQueryRate s.cfg tg ts) s

/-- BUILD_SET_RATE (45 R221). -/
def execBuildSetRate (tg ts rate : Byte) (s : State) : Host.Outcome State Fault Refusal :=
  .next (respondBuilt (buildSetRate s.cfg tg ts rate) s)

/-- BUILD_QUERY_RATE (45 R222). -/
def execBuildQueryRate (tg ts : Byte) (s : State) : Host.Outcome State Fault Refusal :=
  .next (respondBuilt (buildQueryRate s.cfg tg ts) s)

end Sys2Proof.Machine
end

