-- ==== Sys2Proof/Machine/FramerSteps.lean ====
section
/-!
DEFINITION. The framer's internal steps that handle no message of the opcode table (spec 44): APPEND, the scan's stops
and rejected candidates, COMPACT, BOUND; and the meaning of NOISE.
-/

namespace Sys2Proof.Machine

/-- APPEND: `BUF <- BUF ++ c; pos <- 0` (44 R181). -/
def appendStep (chunk : Bytes) (s : State) : State := { appendBuf chunk s with framer := .scan 0 }

/-- The SCAN step at `pos` where no instruction stands: the scan stops and keeps the bytes (44 R182 to R184), or a
candidate sentence failed ValidateNmea and is logged and skipped (44 R186, 60 R245). -/
def scanWithout (e : ElementError) (pos : Nat) (s : State) : State :=
  match e with
  | .exhausted => stopScan pos s
  | .unterminatedSentence => stopScan pos s
  | .loneMagic0 => stopScan pos s
  | .incompleteFrame => stopScan pos s
  | .badSentence length => advance length (logDiag (.checksumMismatch .nmea length) s)

/-- COMPACT: `BUF <- BUF[pos : |BUF|]` (44 R188). -/
def compactStep (pos : Nat) (s : State) : State := { dropBuf pos s with framer := .bound }

/-- The overflow check of BOUND: a remainder longer than `BUF_MAX` is discarded whole and logged (44 R189). -/
def checkBound (s : State) : State :=
  if bufMax < s.buf.length then clearBuf (logDiag (.bufferOverflow s.buf.length) s) else s

/-- BOUND: the overflow check, then `BUSY <- 0` and the FEED's response (44 R180, R189; 45 R218). -/
def boundStep (s : State) : State := pushResponse ⟨none, .empty⟩ (endFeed (checkBound s))

/-- NOISE: `pos <- pos + 1`, nothing written and nothing logged (44 R185). Which byte it is does not matter. -/
def execNoise (_byte : Byte) (s : State) : Host.Outcome State Fault Refusal := .next (advance 1 s)

end Sys2Proof.Machine
end

