-- ==== Sys2Proof/Machine/Binary.lean ====
section
/-!
DEFINITION. Binary frames (spec 42): ParseFrame, the routing of 44 R187, and the meanings of the five binary rows.
-/

namespace Sys2Proof.Machine

/-- The event of a frame whose checksum is valid, in the order of 42 R159's last four lines. In every valid instance a
query-rate frame's event is UNHANDLED, as 43 R171 says (`Config.valid`; log entry 23). -/
def frameEvent (cfg : Config) (group sub : Byte) (payload : Bytes) : Event :=
  if group = cfg.grpResp ∧ sub = cfg.subAck ∧ 2 ≤ payload.length then .ack (byteAt payload 0) (byteAt payload 1)
  else if group = cfg.grpResp ∧ sub = cfg.subNak ∧ 2 ≤ payload.length then
    .nak (byteAt payload 0) (byteAt payload 1)
  else if group = cfg.grpCfg ∧ sub = cfg.subRateResp ∧ 3 ≤ payload.length then
    .rate (byteAt payload 0) (byteAt payload 1) (byteAt payload 2)
  else .unhandled group sub payload

/-- ParseFrame, in its check order (42 R159, 60 R251). -/
def parseFrame (cfg : Config) (b : Bytes) : FrameResult :=
  if b.length = 0 then ⟨0, .incomplete, none⟩
  else if byteAt b 0 ≠ cfg.magic0 then ⟨1, .badMagic, none⟩
  else if b.length = 1 then ⟨0, .incomplete, none⟩
  else if byteAt b 1 ≠ cfg.magic1 then ⟨1, .badMagic, none⟩
  else if b.length < 6 then ⟨0, .incomplete, none⟩
  else
    let n := payloadLength b
    let total := frameLength n
    if b.length < total then ⟨0, .incomplete, none⟩
    else
      let ck := runSum (slice b 2 (6 + n))
      if byteAt b (6 + n) ≠ ck.1 ∨ byteAt b (7 + n) ≠ ck.2 then ⟨total, .checksumMismatch, none⟩
      else ⟨total, .ok, some (frameEvent cfg (byteAt b 2) (byteAt b 3) (slice b 6 (6 + n)))⟩

/-- Routing of a binary event: a rate report goes to the rate table first; every event is emitted (44 R187). -/
def routeEvent (e : Event) (s : State) : State :=
  match e with
  | .rate tg ts r => emit (.rate tg ts r) (setRateEntry tg ts r s)
  | .ack tg ts => emit (.ack tg ts) s
  | .nak tg ts => emit (.nak tg ts) s
  | .unhandled g u payload => emit (.unhandled g u payload) s
  | .nmea r => emit (.nmea r) s

/-- An accepted frame with payload length `n`: its event is routed and the cursor moves past its `T` bytes
(44 R184 (b)). -/
def acceptFrame (e : Event) (n : Nat) (s : State) : State := advance (frameLength n) (routeEvent e s)

/-- BIN_ACK: ACK with the echoed target; a payload below 2 bytes is delivered as UNHANDLED (42 R156). -/
def execBinAck (payload : Bytes) (s : State) : Host.Outcome State Fault Refusal :=
  match payload with
  | tg :: ts :: _ => .next (acceptFrame (.ack tg ts) payload.length s)
  | _ => .next (acceptFrame (.unhandled s.cfg.grpResp s.cfg.subAck payload) payload.length s)

/-- BIN_NAK: NAK with the echoed target; a payload below 2 bytes is delivered as UNHANDLED (42 R156). -/
def execBinNak (payload : Bytes) (s : State) : Host.Outcome State Fault Refusal :=
  match payload with
  | tg :: ts :: _ => .next (acceptFrame (.nak tg ts) payload.length s)
  | _ => .next (acceptFrame (.unhandled s.cfg.grpResp s.cfg.subNak payload) payload.length s)

/-- BIN_RATE_RESP: the rate is stored and reported; a payload below 3 bytes is delivered as UNHANDLED (42 R157). -/
def execBinRateResp (payload : Bytes) (s : State) : Host.Outcome State Fault Refusal :=
  match payload with
  | tg :: ts :: rate :: _ => .next (acceptFrame (.rate tg ts rate) payload.length s)
  | _ => .next (acceptFrame (.unhandled s.cfg.grpCfg s.cfg.subRateResp payload) payload.length s)

/-- BIN_UNHANDLED: reported whole (42 R158). -/
def execBinUnhandled (group sub : Byte) (payload : Bytes) (s : State) : Host.Outcome State Fault Refusal :=
  .next (acceptFrame (.unhandled group sub payload) payload.length s)

/-- BIN_BAD_CHECKSUM: logged with `T`, skipped by `T`, no event (42 R155, 44 R184 (b), 60 R244). What the frame holds
does not matter. -/
def execBinBadChecksum (_group _sub : Byte) (payload : Bytes) (_ckA _ckB : Byte) (s : State) :
    Host.Outcome State Fault Refusal :=
  let total := frameLength payload.length
  .next (advance total (logDiag (.checksumMismatch .bin total) s))

end Sys2Proof.Machine
end

