-- ==== Sys2Proof/Machine/Nmea.lean ====
section
/-!
DEFINITION. NMEA sentences (spec 41): split-and-map into a record, ParseNmea, the named field tables, the routing of
44 R186, and the meanings of the ten NMEA rows.
-/

namespace Sys2Proof.Machine

/-- The field mapping of 41 R126 to R128 from position `i` on: the maxima of the positions still to fill against the
data fields still to place. Data fields past the last position are ignored. -/
def mapFields (policy : FieldPolicy) (k : Kind) (i : Nat) :
    List Nat → List Bytes → Except ErrorRecord (List (Option Bytes))
  | [], _ => .ok []
  | _ :: maxima, [] => (mapFields policy k (i + 1) maxima []).map (none :: ·)
  | m :: maxima, d :: data =>
    if d.length = 0 then (mapFields policy k (i + 1) maxima data).map (none :: ·)
    else if m < d.length then
      match policy with
      | .reject => .error (.fieldOverflow k i)
      | .truncate => (mapFields policy k (i + 1) maxima data).map (some (d.take m) :: ·)
    else (mapFields policy k (i + 1) maxima data).map (some d :: ·)

/-- The record of a validated sentence of kind `k`, or FIELD_OVERFLOW (41 R124 to R128, R132). The address field is not
stored. -/
def buildRecord (cfg : Config) (k : Kind) (talker : Byte × Byte) (body : Bytes) : Except ErrorRecord Record :=
  (mapFields cfg.fieldPolicy k 1 (fieldMaxima cfg k) (splitCommas body).tail).map fun fields => ⟨k, talker, fields⟩

/-- The info of UNRECOGNIZED_KIND: `text[3 : min(6, |text|)]` (41 R132). -/
def tagInfo (text : Bytes) : Bytes := slice text 3 (min 6 text.length)

/-- ParseNmea, in its order of checks: checksum, kind, fields (41 R132, 60 R250). -/
def parseNmea (cfg : Config) (text : Bytes) : Except ErrorRecord Record :=
  if validateNmea text = false then .error (.checksumMismatch .nmea text.length)
  else
    match classify text with
    | none => .error (.unrecognizedKind (tagInfo text))
    | some k =>
      let t := stripCrLf text
      buildRecord cfg k (byteAt t 1, byteAt t 2) (sentenceBody t)

/-! ## Named field tables -/

/-- The named positions of an RMC record (41 R129). -/
inductive RmcField where
  | utcTime | status | latitude | nsHemisphere | longitude | ewHemisphere | speedOverGround | courseOverGround | date
deriving DecidableEq, Repr

/-- The named positions of a GGA record (41 R130). -/
inductive GgaField where
  | utcTime | latitude | nsHemisphere | longitude | ewHemisphere | fixQuality | satelliteCount | hdop | altitude
  | altitudeUnits | geoidSeparation
deriving DecidableEq, Repr

/-- The position of a named RMC field (41 R129). -/
def rmcPosition : RmcField → Nat
  | .utcTime => 1
  | .status => 2
  | .latitude => 3
  | .nsHemisphere => 4
  | .longitude => 5
  | .ewHemisphere => 6
  | .speedOverGround => 7
  | .courseOverGround => 8
  | .date => 9

/-- The position of a named GGA field (41 R130). -/
def ggaPosition : GgaField → Nat
  | .utcTime => 1
  | .latitude => 2
  | .nsHemisphere => 3
  | .longitude => 4
  | .ewHemisphere => 5
  | .fixQuality => 6
  | .satelliteCount => 7
  | .hdop => 8
  | .altitude => 9
  | .altitudeUnits => 10
  | .geoidSeparation => 11

/-- `F[i]` of a record, for a position `i ≥ 1`; `None` past the last position (10 R31). -/
def fieldAt (r : Record) (i : Nat) : Option Bytes := (r.fields.getD (i - 1) none)

/-! ## Routing -/

/-- Routing of an accepted record: the slot, if its kind has one, then the event (44 R186). -/
def acceptRecord (r : Record) (s : State) : State :=
  if hasSlot r.kind then emit (.nmea r) (updateSnapshot r.kind r s) else emit (.nmea r) s

/-- Routing of a ParseNmea result, then the cursor past the span of `length` bytes (44 R183, R186). -/
def routeSentence (r : Except ErrorRecord Record) (length : Nat) (s : State) : State :=
  match r with
  | .ok record => advance length (acceptRecord record s)
  | .error e => advance length (logDiag e s)

/-- A validated sentence of a classified kind, met by the SCAN step (44 R183): its record or its FIELD_OVERFLOW is
routed. -/
def scanSentence (k : Kind) (talker0 talker1 : Byte) (data : Bytes) (s : State) : State :=
  let body := talker0 :: talker1 :: (kindTag k ++ data)
  routeSentence (buildRecord s.cfg k (talker0, talker1) body) (sentenceLength body.length) s

/-! ## Meanings -/

/-- NMEA_RMC (41 R132, R129; 44 R186). -/
def execNmeaRmc (talker0 talker1 : Byte) (data : Bytes) (s : State) : Host.Outcome State Fault Refusal :=
  .next (scanSentence .rmc talker0 talker1 data s)

/-- NMEA_GGA (41 R132, R130; 44 R186). -/
def execNmeaGga (talker0 talker1 : Byte) (data : Bytes) (s : State) : Host.Outcome State Fault Refusal :=
  .next (scanSentence .gga talker0 talker1 data s)

/-- NMEA_GLL (41 R132, R131; 44 R186). -/
def execNmeaGll (talker0 talker1 : Byte) (data : Bytes) (s : State) : Host.Outcome State Fault Refusal :=
  .next (scanSentence .gll talker0 talker1 data s)

/-- NMEA_GSA (41 R132, R131; 44 R186). -/
def execNmeaGsa (talker0 talker1 : Byte) (data : Bytes) (s : State) : Host.Outcome State Fault Refusal :=
  .next (scanSentence .gsa talker0 talker1 data s)

/-- NMEA_GSV (41 R132, R131; 44 R186). -/
def execNmeaGsv (talker0 talker1 : Byte) (data : Bytes) (s : State) : Host.Outcome State Fault Refusal :=
  .next (scanSentence .gsv talker0 talker1 data s)

/-- NMEA_VTG (41 R132, R131; 44 R186). -/
def execNmeaVtg (talker0 talker1 : Byte) (data : Bytes) (s : State) : Host.Outcome State Fault Refusal :=
  .next (scanSentence .vtg talker0 talker1 data s)

/-- NMEA_GST: an event and no slot (41 R132, R131; 44 R186). -/
def execNmeaGst (talker0 talker1 : Byte) (data : Bytes) (s : State) : Host.Outcome State Fault Refusal :=
  .next (scanSentence .gst talker0 talker1 data s)

/-- NMEA_GRS: an event and no slot (41 R132, R131; 44 R186). -/
def execNmeaGrs (talker0 talker1 : Byte) (data : Bytes) (s : State) : Host.Outcome State Fault Refusal :=
  .next (scanSentence .grs talker0 talker1 data s)

/-- NMEA_ZDA: an event and no slot (41 R132, R131; 44 R186). -/
def execNmeaZda (talker0 talker1 : Byte) (data : Bytes) (s : State) : Host.Outcome State Fault Refusal :=
  .next (scanSentence .zda talker0 talker1 data s)

/-- NMEA_UNKNOWN: logged and dropped (60 R247, 44 R186). -/
def execNmeaUnknown (body : Bytes) (s : State) : Host.Outcome State Fault Refusal :=
  .next (routeSentence (.error (.unrecognizedKind (tagInfo (encodeSentence body)))) (sentenceLength body.length) s)

end Sys2Proof.Machine
end

