-- ==== Sys2Proof/Machine/Requests.lean ====
section
/-!
DEFINITION. The meanings of the host transactions (spec 45, R217 to R229; 70 R271; 30 R74), the two build transactions
apart (Builder.lean).
-/

namespace Sys2Proof.Machine

/-- FEED: held while `BUSY = 1`, with no step; else `BUSY <- 1` and the framer starts (45 R218). Its response comes
with BOUND. -/
def execFeed (chunk : Bytes) (s : State) : Host.Outcome State Fault Refusal :=
  if s.busy then .next s else .next (startFeed chunk (takeTurn s))

/-- LATEST (45 R219); a kind code above 9 is ILLEGAL_REQUEST, with the op code 0x02 as its info (30 R74, 60 R241). -/
def execLatest (code : Byte) (s : State) : Host.Outcome State Fault Refusal :=
  match kindOfCode code with
  | some k => .next (respond (.record (latestOf k s)) s)
  | none => .next (respondError (.illegalRequest 0x02) .empty s)

/-- GET_RATE (45 R220). -/
def execGetRate (group sub : Byte) (s : State) : Host.Outcome State Fault Refusal :=
  .next (respond (.rate (rateOf group sub s)) s)

/-- PARSE_FRAME: the triple of ParseFrame; nothing is applied or logged (45 R223). -/
def execParseFrame (bytes : Bytes) (s : State) : Host.Outcome State Fault Refusal :=
  .next (respond (.parsed (parseFrame s.cfg bytes)) s)

/-- CLASSIFY: the kind code (45 R224). -/
def execClassify (text : Bytes) (s : State) : Host.Outcome State Fault Refusal :=
  .next (respond (.kind (kindCode (classify text))) s)

/-- VALIDATE_NMEA (45 R225). -/
def execValidateNmea (text : Bytes) (s : State) : Host.Outcome State Fault Refusal :=
  .next (respond (.bit (validateNmea text)) s)

/-- PARSE_NMEA: the record, or the error code and `None`; nothing is stored (45 R226). -/
def execParseNmea (text : Bytes) (s : State) : Host.Outcome State Fault Refusal :=
  match parseNmea s.cfg text with
  | .ok r => .next (respond (.record (some r)) s)
  | .error e => .next (respondError e (.record none) s)

/-- XOR_SUM (45 R227). -/
def execXorSum (bytes : Bytes) (s : State) : Host.Outcome State Fault Refusal :=
  .next (respond (.byte (xorSum bytes)) s)

/-- RUN_SUM (45 R228). -/
def execRunSum (bytes : Bytes) (s : State) : Host.Outcome State Fault Refusal :=
  .next (respond (.word (runSum16 bytes)) s)

/-- BUF_LEN: held while `BUSY = 1`; else the at-rest length (45 R229). -/
def execBufLen (s : State) : Host.Outcome State Fault Refusal :=
  if s.busy then .next s else .next (respond (.natural s.buf.length) s)

/-- RESET: held while `BUSY = 1`; else the start-up state, in one step (70 R271). -/
def execReset (s : State) : Host.Outcome State Fault Refusal :=
  if s.busy then .next s else .next (respond .empty (resetBlock s))

/-- ILLEGAL_REQUEST: an undefined op code changes no state, whatever its arguments (30 R74, 60 R241). -/
def execIllegalRequest (op : Byte) (_args : Bytes) (s : State) : Host.Outcome State Fault Refusal :=
  .next (respondError (.illegalRequest op) .empty s)

end Sys2Proof.Machine
end

