-- ==== Sys2Proof/Machine/Dispatch.lean ====
section
/-!
DEFINITION. exec: one arm per row of the opcode table, each one call of the row's meaning.
-/

namespace Sys2Proof.Machine

def exec (i : Instr) (s : State) : Host.Outcome State Fault Refusal :=
  match i with
  | .nmeaRmc a b data => Sys2Proof.Machine.execNmeaRmc a b data s
  | .nmeaGga a b data => Sys2Proof.Machine.execNmeaGga a b data s
  | .nmeaGll a b data => Sys2Proof.Machine.execNmeaGll a b data s
  | .nmeaGsa a b data => Sys2Proof.Machine.execNmeaGsa a b data s
  | .nmeaGsv a b data => Sys2Proof.Machine.execNmeaGsv a b data s
  | .nmeaVtg a b data => Sys2Proof.Machine.execNmeaVtg a b data s
  | .nmeaGst a b data => Sys2Proof.Machine.execNmeaGst a b data s
  | .nmeaGrs a b data => Sys2Proof.Machine.execNmeaGrs a b data s
  | .nmeaZda a b data => Sys2Proof.Machine.execNmeaZda a b data s
  | .nmeaUnknown body => Sys2Proof.Machine.execNmeaUnknown body s
  | .binAck payload => Sys2Proof.Machine.execBinAck payload s
  | .binNak payload => Sys2Proof.Machine.execBinNak payload s
  | .binRateResp payload => Sys2Proof.Machine.execBinRateResp payload s
  | .binUnhandled group sub payload => Sys2Proof.Machine.execBinUnhandled group sub payload s
  | .binBadChecksum group sub payload ckA ckB => Sys2Proof.Machine.execBinBadChecksum group sub payload ckA ckB s
  | .noise byte => Sys2Proof.Machine.execNoise byte s
  | .setRate tg ts rate => Sys2Proof.Machine.execSetRate tg ts rate s
  | .queryRate tg ts => Sys2Proof.Machine.execQueryRate tg ts s
  | .feed chunk => Sys2Proof.Machine.execFeed chunk s
  | .latest code => Sys2Proof.Machine.execLatest code s
  | .getRate group sub => Sys2Proof.Machine.execGetRate group sub s
  | .buildSetRate tg ts rate => Sys2Proof.Machine.execBuildSetRate tg ts rate s
  | .buildQueryRate tg ts => Sys2Proof.Machine.execBuildQueryRate tg ts s
  | .parseFrame bytes => Sys2Proof.Machine.execParseFrame bytes s
  | .classify text => Sys2Proof.Machine.execClassify text s
  | .validateNmea text => Sys2Proof.Machine.execValidateNmea text s
  | .parseNmea text => Sys2Proof.Machine.execParseNmea text s
  | .xorSum bytes => Sys2Proof.Machine.execXorSum bytes s
  | .runSum bytes => Sys2Proof.Machine.execRunSum bytes s
  | .bufLen => Sys2Proof.Machine.execBufLen s
  | .reset => Sys2Proof.Machine.execReset s
  | .illegalRequest op args => Sys2Proof.Machine.execIllegalRequest op args s

end Sys2Proof.Machine
end

