-- ==== Sys2Proof/Machine/Fetch.lean ====
section
/-!
DEFINITION. Who moves next and what it runs: the agents' order in `turns`, the holding of transactions (spec 45 R218,
R229; 70 R271), and the framer's next internal step (44 R180), with the instruction it reads at the scan cursor (R182).
-/

namespace Sys2Proof.Machine

/-- What the next step of the machine is. -/
inductive Move where
  /-- The framer agent moves (if no FEED runs, it has nothing to do). -/
  | framer
  /-- This instruction of a host is run. -/
  | host (i : Instr)
  /-- The model has no move. -/
  | refuse (why : Refusal)
deriving DecidableEq, Repr

/-- Does the request break the duty of one feeding path? FEED is the one transaction with such a duty, and the path is the
feeding host (60 R258, 93 section 2; log entry 4). -/
def isSecondPath (agent : Agent) (i : Instr) : Bool :=
  match i with
  | .feed _ => agent != .feedingHost
  | _ => false

/-- The next move: the framer's when no host does anything, when it is its turn, or when the host at the head is held
(a held transaction takes no step; the running FEED goes on, 45 R218, 70 R281). Else the host's instruction. -/
def nextMove (s : State) : Move :=
  match s.turns with
  | [] => .framer
  | .framer :: _ => .framer
  | .request agent req :: _ =>
    match decodeRequest req with
    | .ok i =>
      if isSecondPath agent i then .refuse .secondFeedingPath else if isHeld i s then .framer else .host i
    | .error e => .refuse (.malformedRequest e)
  | .transmit frame :: _ =>
    match decodeOutbound s.cfg frame with
    | .ok i => .host i
    | .error _ => .refuse .notBuilderOutput

/-- A turn of the framer's own is used up by its step. -/
def takeFramerTurn (s : State) : State :=
  match s.turns with
  | .framer :: _ => takeTurn s
  | _ => s

/-- What the framer agent's next internal step is. -/
inductive FramerMove where
  /-- The SCAN step runs this instruction. -/
  | element (i : Instr)
  /-- The step leads to this state. -/
  | internal (t : State)
deriving DecidableEq, Repr

/-- The framer's next internal step: APPEND, SCAN, COMPACT, BOUND in their order (44 R180); SCAN reads the element at
the cursor (44 R182). With no FEED running nothing changes. -/
def framerMove (s : State) : FramerMove :=
  match s.framer with
  | .idle => .internal s
  | .append chunk => .internal (appendStep chunk s)
  | .scan pos =>
    match decodeElement s.cfg (s.buf.drop pos) with
    | .ok i => .element i
    | .error e => .internal (scanWithout e pos s)
  | .compact pos => .internal (compactStep pos s)
  | .bound => .internal (boundStep s)

end Sys2Proof.Machine
end

