-- ==== Sys2Proof/Machine/Step.lean ====
section
/-!
DEFINITION. One step of the machine: one internal step of the framer agent, or one transaction of a host (spec 44 R180,
20 R47); and how an instruction of the opcode table is put where the next step reads it.
-/

namespace Sys2Proof.Machine

/-- The framer agent's step. -/
def framerStep (s : State) : Host.Outcome State Fault Refusal :=
  match framerMove s with
  | .element i => exec i s
  | .internal t => .next t

/-- One step. -/
def step (s : State) : Host.Outcome State Fault Refusal :=
  match nextMove s with
  | .framer => framerStep (takeFramerTurn s)
  | .host i => exec i s
  | .refuse why => .refused why

/-- The state whose next step runs the instruction of a table word (log entries 10 and 11): a host transaction or a frame
for the sink is put at the head of the agents' turns, of a block at rest; an inbound element is the buffer of a FEED whose
scan stands at 0, the framer's turn next (no turn is added where no host waits: the framer moves then). -/
def State.withFetchWord (s : State) (nbits w : Nat) : State :=
  match wordChannel nbits w with
  | .host =>
    { s with
      busy := false
      framer := .idle
      turns := .request .feedingHost (requestOfWord nbits w) :: s.turns }
  | .outbound => { s with turns := .transmit (elementOfWord nbits w) :: s.turns }
  | .inbound =>
    { s with
      buf := elementOfWord nbits w
      busy := true
      framer := .scan 0
      turns :=
        match s.turns with
        | [] => []
        | t :: rest => .framer :: t :: rest }

end Sys2Proof.Machine
end

