-- ==== Sys2Proof/Safety.lean ====
section
/-!
DEFINITION. What a legal state and a legal host are (spec 10 R22, R24, R25, R31; 60 R258), and the scan step written a
second time, index by index as the pseudocode of 44 R182 to R187 has it, for statements to compare the machine with.
-/

namespace Sys2Proof.Machine

/-! ## Legal states -/

/-- The at-rest forms (a) to (d) of `BUF` (10 R22), the length bound apart. -/
def restForm (cfg : Config) (b : Bytes) : Bool :=
  match b with
  | [] => true
  | x :: rest =>
    (x == dollar && noCrLf rest)
    || (x == cfg.magic0 && rest.head? == some cfg.magic1
        && (decide (b.length < 6) || decide (b.length < frameLength (payloadLength b))))
    || (x == cfg.magic0 && rest == [] && cfg.retainLoneMagic0)

/-- One value per position, each `None` or of length `1 .. FIELD_MAX` (10 R31). -/
def fieldsFit : List Nat → List (Option Bytes) → Bool
  | [], [] => true
  | _ :: maxima, none :: fields => fieldsFit maxima fields
  | m :: maxima, some d :: fields => decide (1 ≤ d.length) && decide (d.length ≤ m) && fieldsFit maxima fields
  | _, _ => false

/-- A record as 10 R31 has it. -/
def recordFits (cfg : Config) (r : Record) : Bool := fieldsFit (fieldMaxima cfg r.kind) r.fields

/-- A slot holds `None` or a record of its kind (10 R24). -/
def slotFits (cfg : Config) (k : Kind) (o : Option Record) : Bool :=
  match o with
  | none => true
  | some r => r.kind == k && recordFits cfg r

/-- Every slot holds `None` or a record of its kind (10 R24). -/
def snapFits (cfg : Config) (t : Snapshots) : Bool :=
  slotFits cfg .rmc t.rmc && slotFits cfg .gga t.gga && slotFits cfg .gll t.gll && slotFits cfg .vtg t.vtg
  && slotFits cfg .gsa t.gsa && slotFits cfg .gsv t.gsv

/-- An event as 10 R32 has it. -/
def eventFits (cfg : Config) : Event → Bool
  | .nmea r => recordFits cfg r
  | .ack _ _ => true
  | .nak _ _ => true
  | .rate _ _ _ => true
  | .unhandled _ _ payload => payloadFits payload

/-- The four codes that `DIAG` records (60 R241, "reported by"). -/
def isDiagnostic : ErrorRecord → Bool
  | .checksumMismatch _ _ => true
  | .bufferOverflow _ => true
  | .unrecognizedKind _ => true
  | .fieldOverflow _ _ => true
  | .invalidTarget _ _ => false
  | .illegalRequest _ => false

/-- What `BUF` is in each phase of the framer: at rest before the scan and after BOUND (10 R21, R22), the cursor inside
the buffer during the scan (10 R23), and a rest form from the cursor on once the scan has stopped. -/
def framerFits (s : State) : Bool :=
  match s.framer with
  | .idle => restForm s.cfg s.buf && decide (s.buf.length ≤ bufMax)
  | .append _ => restForm s.cfg s.buf && decide (s.buf.length ≤ bufMax)
  | .scan pos => decide (pos ≤ s.buf.length)
  | .compact pos => decide (pos ≤ s.buf.length) && restForm s.cfg (s.buf.drop pos)
  | .bound => restForm s.cfg s.buf

/-- The invariant of the machine. -/
structure Inv (s : State) : Prop where
  /-- The parameters meet their constraints (00 R8). -/
  cfg : s.cfg.meetsConstraints = true
  /-- The rate table is canonical, its keys 16-bit (10 R25). -/
  rate : Memory.wf s.rate = true
  /-- Slots hold records of their own kind (10 R24). -/
  snap : snapFits s.cfg s.snap = true
  /-- Events are those of 10 R32. -/
  out : s.out.all (eventFits s.cfg) = true
  /-- Diagnostics are those of 60 R241. -/
  diag : s.diag.all isDiagnostic = true
  /-- `BUSY` is set exactly while a FEED is in progress (10 R28). -/
  busy : s.busy = (s.framer != .idle)
  /-- `BUF` and the cursor (10 R21 to R23). -/
  framer : framerFits s = true

/-- No FEED is running. -/
def atRest (s : State) : Bool := !s.busy && s.framer == .idle

/-! ## Legal hosts -/

/-- What 60 R258 asks of a turn: a request is an `(op, args)` of 30 R73, FEED comes from the one feeding path with a chunk
of at most `CHUNK_MAX` bytes, and only builder output goes to the sink. -/
def turnIsLegal (cfg : Config) : Turn → Bool
  | .framer => true
  | .request agent req =>
    match decodeRequest req with
    | .ok (.feed chunk) => agent == .feedingHost && cfg.chunkMax.all fun m => decide (chunk.length ≤ m)
    | .ok _ => true
    | .error _ => false
  | .transmit frame =>
    match decodeOutbound cfg frame with
    | .ok _ => true
    | .error _ => false

/-- Every host keeps its duties (60 R258). -/
def hostsAreLegal (s : State) : Bool := s.turns.all (turnIsLegal s.cfg)

/-- A host's program: its transactions in order (30 R75). -/
def hostProgram (agent : Agent) (cfg : Config) (program : List Instr) : List Turn :=
  program.map fun i => .request agent (encode cfg i)

/-- How many overflows `DIAG` records. -/
def overflowCount (d : List ErrorRecord) : Nat :=
  d.countP fun e => match e with
    | .bufferOverflow _ => true
    | _ => false

/-- `n` steps of the machine. -/
abbrev run (n : Nat) (s : State) : Host.Outcome State Fault Refusal := Host.Core.run Sys2Proof.core n s

/-! ## The stored fields, position by position -/

/-- `F[i]` of a record of kind `k` from the split `f` of its body (41 R126 to R128): `None` for a missing or an empty
field; else its bytes, cut at `FIELD_MAX(k, i)` (which cuts nothing of a field that fits). -/
def storedField (cfg : Config) (k : Kind) (f : List Bytes) (i : Nat) : Option Bytes :=
  match f[i]? with
  | none => none
  | some d => if d = [] then none else some (d.take (fieldMax cfg k i))

/-- `F[1] .. F[FIELD_COUNT(k)]` (10 R31). -/
def storedFields (cfg : Config) (k : Kind) (body : Bytes) : List (Option Bytes) :=
  (List.range (fieldCount cfg k)).map fun j => storedField cfg k (splitCommas body) (j + 1)

/-- The field at position `i` is longer than its maximum. -/
def overlong (cfg : Config) (k : Kind) (body : Bytes) (i : Nat) : Prop :=
  ∃ d, (splitCommas body)[i]? = some d ∧ fieldMax cfg k i < d.length

/-- No stored field is rejected for its length: each fits, or the policy is Truncate (41 R128). -/
def fieldsAccepted (cfg : Config) (k : Kind) (body : Bytes) : Prop :=
  cfg.fieldPolicy = .truncate ∨ ∀ i, 1 ≤ i → i ≤ fieldCount cfg k → ¬ overlong cfg k body i

/-- The bytes between `'$'` and `'*'` of a sentence of kind `k`. -/
def kindBody (k : Kind) (talker0 talker1 : Byte) (data : Bytes) : Bytes := talker0 :: talker1 :: (kindTag k ++ data)

/-- A byte that the scan of `b` discards at index `p` (44 R185). -/
def isNoiseAt (cfg : Config) (b : Bytes) (p : Nat) : Prop :=
  byteAt b p ≠ dollar
  ∧ (byteAt b p = cfg.magic0 →
      (p + 1 < b.length → byteAt b (p + 1) ≠ cfg.magic1) ∧ (p + 1 = b.length → cfg.retainLoneMagic0 = false))

/-! ## The scan step by its pseudocode -/

/-- The smallest `j ≥ pos + 1` with `j + 1 < |BUF|`, `BUF[j] = CR` and `BUF[j+1] = LF` (44 R183). -/
def terminatorIndex (buf : Bytes) (pos : Nat) : Option Nat :=
  (List.range buf.length).find? fun j =>
    decide (pos + 1 ≤ j) && decide (j + 1 < buf.length) && byteAt buf j == cr && byteAt buf (j + 1) == lf

/-- `pos <- p` while scanning. -/
def setCursor (p : Nat) (s : State) : State := { s with framer := .scan p }

/-- The SCAN step at cursor `pos`, case by case as 44 R182 to R187 write it, over ParseNmea and ParseFrame. -/
def scanPseudocode (pos : Nat) (s : State) : State :=
  if pos = s.buf.length then stopScan pos s
  else
    let x := byteAt s.buf pos
    if x = dollar then
      match terminatorIndex s.buf pos with
      | none => stopScan pos s
      | some j =>
        match parseNmea s.cfg (slice s.buf pos (j + 2)) with
        | .ok r =>
          if hasSlot r.kind then setCursor (j + 2) (emit (.nmea r) (updateSnapshot r.kind r s))
          else setCursor (j + 2) (emit (.nmea r) s)
        | .error e => setCursor (j + 2) (logDiag e s)
    else if x = s.cfg.magic0 ∧ pos + 1 = s.buf.length ∧ s.cfg.retainLoneMagic0 then stopScan pos s
    else if x = s.cfg.magic0 ∧ pos + 1 < s.buf.length ∧ byteAt s.buf (pos + 1) = s.cfg.magic1 then
      match parseFrame s.cfg (slice s.buf pos s.buf.length) with
      | ⟨n, .ok, some (.rate tg ts r)⟩ => setCursor (pos + n) (emit (.rate tg ts r) (setRateEntry tg ts r s))
      | ⟨n, .ok, some e⟩ => setCursor (pos + n) (emit e s)
      | ⟨n, .checksumMismatch, _⟩ => setCursor (pos + n) (logDiag (.checksumMismatch .bin n) s)
      | _ => stopScan pos s
    else setCursor (pos + 1) s

end Sys2Proof.Machine
end

