-- ==== Sys2Proof/Certificates/Slice0/Obligations.lean ====
section
/-!
DEFINITION. The statements for the provers. Each docstring cites the rules it formalises; a state that an instruction
leaves is written out whole, so that every field not named is unchanged.
-/

open Sys2Proof Sys2Proof.Machine

/-! ## Encoding -/

/-- Decoding the bytes of a well-formed inbound element, whatever follows them, gives the element back: every
constructor of the inbound rows, every operand its encoding admits (30 R61 to R66, R68, R69). `MAGIC0` as a noise byte
depends on the byte after it and has a statement of its own. -/
def Obligations.InboundDecodeOfEncode : Prop :=
  ∀ (cfg : Config) (i : Instr) (rest : Bytes), cfg.meetsConstraints = true → i.channel = .inbound → i.wellFormed cfg = true →
    (∀ b, i = .noise b → b ≠ cfg.magic0) → decodeElement cfg (encode cfg i ++ rest) = .ok i

/-- The other direction: bytes that decode to an element are its encoding and a rest, and the element is well formed. -/
def Obligations.InboundEncodeOfDecode : Prop :=
  ∀ (cfg : Config) (b : Bytes) (i : Instr), decodeElement cfg b = .ok i →
    (∃ rest, b = encode cfg i ++ rest) ∧ i.channel = .inbound ∧ i.wellFormed cfg = true

/-- `MAGIC0` not followed by `MAGIC1` is a noise byte; as the last byte it is one only where it is not retained
(44 R182, R184 (a), R185). -/
def Obligations.LoneMagicByte : Prop :=
  ∀ (cfg : Config) (y : Byte) (rest : Bytes), cfg.meetsConstraints = true → y ≠ cfg.magic1 →
    decodeElement cfg (cfg.magic0 :: y :: rest) = .ok (.noise cfg.magic0)
    ∧ decodeElement cfg [cfg.magic0]
      = if cfg.retainLoneMagic0 = true then .error .loneMagic0 else .ok (.noise cfg.magic0)

/-- A host request's bytes decode to the request (30 R73, R74; the byte layout is the model's choice, log entry 7). -/
def Obligations.RequestDecodeOfEncode : Prop :=
  ∀ (cfg : Config) (i : Instr), i.channel = .host → i.wellFormed cfg = true → decodeRequest (encode cfg i) = .ok i

/-- The two outbound frames are read back from their templates, also where both have the same sub id; to a target that the
builder refuses there is no frame, and the template's bytes are turned away (30 R71, R72; 60 R249, R258; log entry 6). -/
def Obligations.OutboundDecodeOfEncode : Prop :=
  ∀ (cfg : Config) (tg ts rate : Byte),
    (targetValid cfg tg ts = true →
      decodeOutbound cfg (encode cfg (.setRate tg ts rate)) = .ok (.setRate tg ts rate)
      ∧ decodeOutbound cfg (encode cfg (.queryRate tg ts)) = .ok (.queryRate tg ts))
    ∧ (targetValid cfg tg ts = false →
      decodeOutbound cfg (encode cfg (.setRate tg ts rate)) = .error .notBuilderOutput
      ∧ decodeOutbound cfg (encode cfg (.queryRate tg ts)) = .error .notBuilderOutput)

/-- Words written out from the spec's encodings, one of each family, for the test instance (95 L1, L2). Two clauses rest on
the model's choices: that a frame is read at the sink (log entry 6), and the byte layout of a request (log entry 7). -/
def Obligations.SpecWordsDecode : Prop :=
  -- "$GPRMC*4B\r\n"
  decodeElement Config.testInstance [0x24, 0x47, 0x50, 0x52, 0x4D, 0x43, 0x2A, 0x34, 0x42, 0x0D, 0x0A]
      = .ok (.nmeaRmc 0x47 0x50 [])
  -- ACK
  ∧ decodeElement Config.testInstance [0xB5, 0x62, 0x05, 0x01, 0x02, 0x00, 0x06, 0x01, 0x0F, 0x38]
      = .ok (.binAck [0x06, 0x01])
  -- RR1
  ∧ decodeElement Config.testInstance [0xB5, 0x62, 0x06, 0x01, 0x03, 0x00, 0xF0, 0x04, 0x01, 0xFF, 0x18]
      = .ok (.binRateResp [0xF0, 0x04, 0x01])
  -- BADACK
  ∧ decodeElement Config.testInstance [0xB5, 0x62, 0x05, 0x01, 0x02, 0x00, 0x06, 0x01, 0x0F, 0x39]
      = .ok (.binBadChecksum 0x05 0x01 [0x06, 0x01] 0x0F 0x39)
  -- a query-rate frame, read at the sink (log entry 6)
  ∧ decodeOutbound Config.testInstance [0xB5, 0x62, 0x06, 0x01, 0x02, 0x00, 0xF0, 0x04, 0xFD, 0x15]
      = .ok (.queryRate 0xF0 0x04)
  -- GET_RATE F0 04, in the model's request layout (log entry 7)
  ∧ decodeRequest [0x03, 0xF0, 0x04] = .ok (.getRate 0xF0 0x04)

/-! ## The step -/

/-- A step runs the decoded request: whoever issues it, at any time, unless it is a FEED, BUF_LEN or RESET that meets
`BUSY = 1` (45 R217, R218, R229; 70 R271). A FEED comes from the one feeding path; from another the model has no move
(60 R258, 93 section 2; log entry 4). -/
def Obligations.StepRunsRequest : Prop :=
  ∀ (s : State) (agent : Agent) (req : Bytes) (rest : List Turn) (i : Instr),
    s.turns = .request agent req :: rest → decodeRequest req = .ok i →
    (((∃ chunk, i = .feed chunk) → agent = .feedingHost) →
      s.busy = false ∨ ((∀ chunk, i ≠ .feed chunk) ∧ i ≠ .bufLen ∧ i ≠ .reset) → step s = exec i s)
    ∧ ((∃ chunk, i = .feed chunk) → agent ≠ .feedingHost → step s = .refused .secondFeedingPath)

/-- A step runs the element at the scan cursor: on the framer's turn, and when no host does anything. -/
def Obligations.StepRunsElement : Prop :=
  ∀ (s : State) (pos : Nat) (rest : List Turn) (i : Instr),
    s.framer = .scan pos → decodeElement s.cfg (s.buf.drop pos) = .ok i →
    (s.turns = .framer :: rest → step s = exec i { s with turns := rest }) ∧ (s.turns = [] → step s = exec i s)

/-- A step runs the frame that the command host writes to the sink; for bytes that are no builder output the model has no
move (60 R258, log entry 6). -/
def Obligations.StepRunsOutboundFrame : Prop :=
  ∀ (s : State) (frame : Bytes) (rest : List Turn), s.turns = .transmit frame :: rest →
    (∀ i, decodeOutbound s.cfg frame = .ok i → step s = exec i s)
    ∧ (∀ e, decodeOutbound s.cfg frame = .error e → step s = .refused .notBuilderOutput)

/-- A FEED of the one feeding path, a BUF_LEN or a RESET that meets `BUSY = 1` is held: it stays at the head of the turns,
unanswered, and the step is the running FEED's next step (45 R218, R229; 70 R271). -/
def Obligations.BusyBlockHoldsRequest : Prop :=
  ∀ (s : State) (agent : Agent) (req : Bytes) (rest : List Turn) (i : Instr),
    s.turns = .request agent req :: rest → decodeRequest req = .ok i → s.busy = true →
    ((∃ chunk, i = .feed chunk) ∧ agent = .feedingHost ∨ i = .bufLen ∨ i = .reset) →
    step s = framerStep s ∧ exec i s = .next s
      ∧ ∀ t, step s = .next t → t.turns = s.turns

/-! ## Invariants -/

/-- Every step from a legal state leads to a legal state (10 R21 to R25, R28, R31, R32). -/
def Obligations.StepKeepsInvariant : Prop :=
  ∀ s t : State, Inv s → step s = .next t → Inv t

/-- The start-up state of every instance that meets 00 R8 is legal, and so is the state after reset (70 R270). -/
def Obligations.StartStateIsLegal : Prop :=
  (∀ cfg : Config, cfg.meetsConstraints = true → Inv (State.start cfg)) ∧ Inv State.reset

/-- Reset leaves every state element empty, `None` or 0 (70 R270). -/
def Obligations.ResetValues : Prop :=
  State.reset.buf = [] ∧ (∀ k, State.reset.snap.get k = none) ∧ (∀ g u, rateOf g u State.reset = none)
    ∧ State.reset.out = [] ∧ State.reset.diag = [] ∧ State.reset.busy = false ∧ State.reset.framer = .idle

/-- While the hosts keep their duties (60 R258), every step has a next state: nothing the byte stream holds stops the
block (44 R196, 60 R240). -/
def Obligations.LegalHostsAreNeverRefused : Prop :=
  ∀ s : State, hostsAreLegal s = true → ∃ t, step s = .next t ∧ hostsAreLegal t = true

/-- No step changes the parameters of the instance (00 R7, 20 R50). -/
def Obligations.ParametersNeverChange : Prop :=
  ∀ s t : State, step s = .next t → t.cfg = s.cfg

/-- `OUT` and `DIAG` are append-only: but for RESET, every step keeps all their entries, in order (10 R26, R27;
60 R257). -/
def Obligations.LogsOnlyGrow : Prop :=
  ∀ s t : State, step s = .next t → nextMove s ≠ .host .reset → s.out <+: t.out ∧ s.diag <+: t.diag

/-- Only the framer writes the store: no transaction but RESET changes `BUF`, `SNAP`, `RATE`, `OUT` or `DIAG`
(20 R46; 45 R210, R217). FEED writes all of them through the framer's steps (45 R218); that its own step, the accepting, writes
none and only starts the framer is the model's reading, log entry 14. -/
def Obligations.HostsNeverWriteTheStore : Prop :=
  ∀ (i : Instr) (s t : State), i.channel ≠ .inbound → i ≠ .reset → exec i s = .next t →
    t.buf = s.buf ∧ t.snap = s.snap ∧ t.rate = s.rate ∧ t.out = s.out ∧ t.diag = s.diag

/-- Each element the scan runs adds at most one `OUT` event or one `DIAG` entry, never both, answers no one and leaves
`BUF`, `BUSY` and the ports alone (44 R180 (2), 60 R252). -/
def Obligations.OneEntryPerElement : Prop :=
  ∀ (i : Instr) (s : State), i.channel = .inbound → ∃ t, exec i s = .next t
    ∧ ((t.out = s.out ∧ t.diag = s.diag) ∨ ((∃ e, t.out = s.out ++ [e]) ∧ t.diag = s.diag)
      ∨ (t.out = s.out ∧ ∃ d, t.diag = s.diag ++ [d]))
    ∧ t.buf = s.buf ∧ t.busy = s.busy ∧ t.turns = s.turns ∧ t.responses = s.responses ∧ t.sink = s.sink

/-! ## The framer -/

/-- The SCAN step, through the decoder and the meanings of the inbound rows, is the spec's pseudocode over ParseNmea and
ParseFrame, at every cursor inside the buffer (44 R182 to R187). -/
def Obligations.ScanStepIsPseudocode : Prop :=
  ∀ (s : State) (pos : Nat), s.framer = .scan pos → pos ≤ s.buf.length →
    framerStep s = .next (scanPseudocode pos s)

/-- APPEND: `BUF <- BUF ++ c; pos <- 0`, for a chunk of any length (44 R181). -/
def Obligations.AppendStep : Prop :=
  ∀ (s : State) (chunk : Bytes), s.framer = .append chunk →
    framerStep s = .next { s with buf := s.buf ++ chunk, framer := .scan 0 }

/-- COMPACT: `BUF <- BUF[pos : |BUF|]` (44 R188). -/
def Obligations.CompactStep : Prop :=
  ∀ (s : State) (pos : Nat), s.framer = .compact pos →
    framerStep s = .next { s with buf := slice s.buf pos s.buf.length, framer := .bound }

/-- BOUND: a remainder of more than 2048 bytes is discarded whole and logged; one of exactly 2048 is kept; then
`BUSY <- 0` (44 R189). The FEED is answered OK after that (44 R180, 45 R218); that the answer falls into the BOUND step
itself is the model's inference, log entry 14. -/
def Obligations.BoundStep : Prop :=
  ∀ s : State, s.framer = .bound →
    (s.buf.length ≤ 2048 → framerStep s
      = .next { s with busy := false, framer := .idle, responses := s.responses ++ [⟨none, .empty⟩] })
    ∧ (2048 < s.buf.length → framerStep s
      = .next { s with
          buf := []
          diag := s.diag ++ [.bufferOverflow s.buf.length]
          busy := false
          framer := .idle
          responses := s.responses ++ [⟨none, .empty⟩] })

/-- Every SCAN step stops the scan at the cursor or moves the cursor forward, within the buffer: by at least 1, by at
least 3 at a `'$'`, by at least 8 at a frame (44 R191). -/
def Obligations.ScanStepMovesForward : Prop :=
  ∀ (s : State) (pos : Nat), s.framer = .scan pos → pos ≤ s.buf.length →
    ∃ t, framerStep s = .next t ∧ t.buf = s.buf ∧
      (t.framer = .compact pos ∨ ∃ p, t.framer = .scan p ∧ pos + 1 ≤ p ∧ p ≤ s.buf.length
        ∧ (byteAt s.buf pos = dollar → pos + 3 ≤ p)
        ∧ (byteAt s.buf pos ≠ dollar → byteAt s.buf pos = s.cfg.magic0 → pos + 1 < s.buf.length →
            byteAt s.buf (pos + 1) = s.cfg.magic1 → pos + 8 ≤ p))

/-- A FEED that the block accepts is over after at most `|BUF| + |c| + 1` SCAN steps and four others, and is answered
OK: no input leaves the framer stuck (44 R191, 92 D35). That acceptance, APPEND, each SCAN step, COMPACT and BOUND are a
step each is the model's reading, log entry 14. -/
def Obligations.FeedCompletes : Prop :=
  ∀ (s : State) (chunk : Bytes), s.busy = false → s.turns = [.request .feedingHost (encode s.cfg (.feed chunk))] →
    ∃ n t, n ≤ s.buf.length + chunk.length + 5 ∧ run n s = .next t ∧ t.busy = false ∧ t.framer = .idle
      ∧ t.turns = [] ∧ t.responses = s.responses ++ [⟨none, .empty⟩]

/-- Chunking invariance: from a legal state at rest, feeding chunks one after another and feeding them joined in one FEED
leave equal `BUF`, `SNAP`, `RATE`, `OUT` and `DIAG`, if `MAGIC0` is retained and no FEED of either run overflows
(44 R192). -/
def Obligations.ChunkingInvariance : Prop :=
  ∀ (s t u : State) (chunks : List Bytes) (n m : Nat), Inv s → atRest s = true → s.cfg.retainLoneMagic0 = true →
    run n { s with turns := hostProgram .feedingHost s.cfg (chunks.map .feed) } = .next t →
    run m { s with turns := hostProgram .feedingHost s.cfg [.feed chunks.flatten] } = .next u →
    atRest t = true → t.turns = [] → atRest u = true → u.turns = [] →
    overflowCount t.diag = overflowCount s.diag → overflowCount u.diag = overflowCount s.diag →
    t.buf = u.buf ∧ t.snap = u.snap ∧ t.rate = u.rate ∧ t.out = u.out ∧ t.diag = u.diag

/-- A FEED of nothing, to a legal block at rest, ends with nothing changed but the turn taken and the response given
(44 R193). -/
def Obligations.EmptyFeedChangesNothing : Prop :=
  ∀ s : State, Inv s → atRest s = true → s.turns = [.request .feedingHost (encode s.cfg (.feed []))] →
    ∃ n, run n s = .next { s with turns := [], responses := s.responses ++ [⟨none, .empty⟩] }

/-- A FEED of noise alone, of any length, to an empty buffer leaves the buffer empty and logs nothing (44 R195). -/
def Obligations.NoiseNeverOverflows : Prop :=
  ∀ (s : State) (chunk : Bytes), atRest s = true → s.buf = [] →
    (∀ p, p < chunk.length → isNoiseAt s.cfg chunk p) →
    s.turns = [.request .feedingHost (encode s.cfg (.feed chunk))] →
    ∃ n, run n s = .next { s with turns := [], responses := s.responses ++ [⟨none, .empty⟩] }

/-- While `BUF`, with the FEED's bytes joined to it, is a pending partial message, the FEED delivers nothing: its bytes are
kept behind it, or the whole remainder is discarded as an overflow. Pending are: a `'$'` with no CR LF after it; `MAGIC0`,
`MAGIC1` with fewer than 6 bytes or fewer than the declared `8 + N`; a lone `MAGIC0` where it is retained
(10 R22 (b) to (d); 70 R275, R279; 60 R246). -/
def Obligations.UnterminatedSentenceStalls : Prop :=
  ∀ (s : State) (chunk b : Bytes), atRest s = true → s.buf ++ chunk = b →
    ((∃ rest, b = dollar :: rest ∧ noCrLf rest = true)
      ∨ (s.cfg.meetsConstraints = true ∧ (∃ rest, b = s.cfg.magic0 :: s.cfg.magic1 :: rest)
        ∧ (b.length < 6 ∨ b.length < 8 + (byteAt b 4).toNat + 256 * (byteAt b 5).toNat))
      ∨ (s.cfg.meetsConstraints = true ∧ b = [s.cfg.magic0] ∧ s.cfg.retainLoneMagic0 = true)) →
    s.turns = [.request .feedingHost (encode s.cfg (.feed chunk))] →
    ∃ n, run n s = .next
      (if b.length ≤ 2048 then
        { s with buf := b, turns := [], responses := s.responses ++ [⟨none, .empty⟩] }
      else
        { s with
          buf := []
          diag := s.diag ++ [.bufferOverflow b.length]
          turns := []
          responses := s.responses ++ [⟨none, .empty⟩] })

/-! ## Inbound rows -/

/-- NMEA_RMC, NMEA_GGA, NMEA_GLL, NMEA_GSA, NMEA_GSV, NMEA_VTG whose fields are accepted: the kind's slot is replaced
wholesale by the record, no other slot changes, one event is emitted, and the cursor moves past the sentence
(41 R126 to R128, R132; 44 R183, R186; 45 R211). -/
def Obligations.SlotSentenceIsStored : Prop :=
  ∀ (s : State) (k : Kind) (a b : Byte) (data : Bytes), hasSlot k = true → fieldsAccepted s.cfg k (kindBody k a b data) →
    ∃ t, exec (sentenceInstr k a b data) s = .next t
      ∧ t.snap.get k = some ⟨k, (a, b), storedFields s.cfg k (kindBody k a b data)⟩
      ∧ (∀ j, j ≠ k → t.snap.get j = s.snap.get j)
      ∧ t = { s with
          snap := t.snap
          out := s.out ++ [.nmea ⟨k, (a, b), storedFields s.cfg k (kindBody k a b data)⟩]
          framer := advanceFramer (data.length + 11) s.framer }

/-- NMEA_GST, NMEA_GRS, NMEA_ZDA whose fields are accepted: one event, and no slot changes (44 R186). -/
def Obligations.SlotlessSentenceIsEmitted : Prop :=
  ∀ (s : State) (k : Kind) (a b : Byte) (data : Bytes), hasSlot k = false → fieldsAccepted s.cfg k (kindBody k a b data) →
    exec (sentenceInstr k a b data) s = .next { s with
      out := s.out ++ [.nmea ⟨k, (a, b), storedFields s.cfg k (kindBody k a b data)⟩]
      framer := advanceFramer (data.length + 11) s.framer }

/-- A sentence of any kind with a stored field too long, under policy Reject: FIELD_OVERFLOW with the kind and the
smallest such position is logged, and nothing is stored or emitted (41 R128, 60 R248, R250). -/
def Obligations.OverlongFieldRejectsSentence : Prop :=
  ∀ (s : State) (k : Kind) (a b : Byte) (data : Bytes) (i : Nat), s.cfg.fieldPolicy = .reject →
    1 ≤ i → i ≤ fieldCount s.cfg k → overlong s.cfg k (kindBody k a b data) i →
    (∀ j, 1 ≤ j → j < i → ¬ overlong s.cfg k (kindBody k a b data) j) →
    exec (sentenceInstr k a b data) s = .next { s with
      diag := s.diag ++ [.fieldOverflow k i]
      framer := advanceFramer (data.length + 11) s.framer }

/-- NMEA_UNKNOWN: logged with the three bytes at offsets 3 to 5 of the span, no event, no store write (60 R247,
41 R132). -/
def Obligations.UnknownSentenceIsDropped : Prop :=
  ∀ (s : State) (body : Bytes), exec (.nmeaUnknown body) s = .next { s with
    diag := s.diag ++ [.unrecognizedKind (slice (encodeSentence body) 3 6)]
    framer := advanceFramer (body.length + 6) s.framer }

/-- A candidate that fails ValidateNmea is logged with its length and skipped to its terminator, with no field stored
(60 R245; no row of the table stands for it, log entry 9). -/
def Obligations.BadSentenceIsSkipped : Prop :=
  ∀ (s : State) (pos : Nat) (text rest : Bytes), s.framer = .scan pos →
    s.buf.drop pos = dollar :: (text ++ cr :: lf :: rest) → beforeCrLf (text ++ [cr]) = none →
    validateNmea (dollar :: (text ++ [cr, lf])) = false →
    framerStep s = .next { s with
      diag := s.diag ++ [.checksumMismatch .nmea (text.length + 3)]
      framer := .scan (pos + text.length + 3) }

/-- BIN_ACK and BIN_NAK: the echoed target is emitted and later payload bytes are ignored; nothing else changes
(42 R156, 44 R187). -/
def Obligations.AckAndNakAreEmitted : Prop :=
  ∀ (s : State) (tg ts : Byte) (more : Bytes),
    exec (.binAck (tg :: ts :: more)) s = .next { s with
      out := s.out ++ [.ack tg ts]
      framer := advanceFramer (more.length + 10) s.framer }
    ∧ exec (.binNak (tg :: ts :: more)) s = .next { s with
      out := s.out ++ [.nak tg ts]
      framer := advanceFramer (more.length + 10) s.framer }

/-- BIN_RATE_RESP: the reported rate is the key's last write, every other key keeps its value, and the event is emitted
(42 R157, 44 R187, 45 R213). -/
def Obligations.RateReportIsStored : Prop :=
  ∀ (s : State) (tg ts rate : Byte) (more : Bytes), ∃ t,
    exec (.binRateResp (tg :: ts :: rate :: more)) s = .next t
    ∧ rateOf tg ts t = some rate
    ∧ (∀ g u, (g, u) ≠ (tg, ts) → rateOf g u t = rateOf g u s)
    ∧ t = { s with
        rate := t.rate
        out := s.out ++ [.rate tg ts rate]
        framer := advanceFramer (more.length + 11) s.framer }

/-- BIN_UNHANDLED: group, sub and the whole payload are emitted (42 R158, 44 R187). BIN_ACK and BIN_NAK with fewer than 2
payload bytes and BIN_RATE_RESP with fewer than 3 do the same (42 R156, R157): operands that the decoder never gives, log entry 19. -/
def Obligations.UnhandledFrameIsEmitted : Prop :=
  ∀ (s : State) (g u : Byte) (payload : Bytes),
    exec (.binUnhandled g u payload) s = .next { s with
      out := s.out ++ [.unhandled g u payload]
      framer := advanceFramer (payload.length + 8) s.framer }
    ∧ (payload.length < 2 →
        exec (.binAck payload) s = exec (.binUnhandled s.cfg.grpResp s.cfg.subAck payload) s
        ∧ exec (.binNak payload) s = exec (.binUnhandled s.cfg.grpResp s.cfg.subNak payload) s)
    ∧ (payload.length < 3 →
        exec (.binRateResp payload) s = exec (.binUnhandled s.cfg.grpCfg s.cfg.subRateResp payload) s)

/-- BIN_BAD_CHECKSUM: the whole declared frame is skipped and logged, and its event is not emitted (60 R244). -/
def Obligations.BadFrameIsSkipped : Prop :=
  ∀ (s : State) (g u : Byte) (payload : Bytes) (ckA ckB : Byte),
    exec (.binBadChecksum g u payload ckA ckB) s = .next { s with
      diag := s.diag ++ [.checksumMismatch .bin (8 + payload.length)]
      framer := advanceFramer (8 + payload.length) s.framer }

/-- NOISE: the cursor moves by 1, nothing is written and nothing is logged (44 R185). -/
def Obligations.NoiseByteIsDiscarded : Prop :=
  ∀ (s : State) (b : Byte) (pos : Nat), s.framer = .scan pos →
    exec (.noise b) s = .next { s with framer := .scan (pos + 1) }

/-! ## Outbound rows and the builder -/

/-- SET_RATE and QUERY_RATE to an accepted target: the frame of 30 R71 or R72, its checksum over its own bytes from 2 on,
goes to the sink, and nothing else changes (43 R170, R171, R173; the sink is the model's, log entry 6). -/
def Obligations.OutboundFramesAreSent : Prop :=
  ∀ (s : State) (tg ts rate : Byte), targetValid s.cfg tg ts = true →
    exec (.setRate tg ts rate) s = .next { s with
      turns := s.turns.tail
      sink := s.sink ++ [[s.cfg.magic0, s.cfg.magic1, s.cfg.grpCfg, s.cfg.subRateSet, 0x03, 0x00, tg, ts, rate,
        (runSum [s.cfg.grpCfg, s.cfg.subRateSet, 0x03, 0x00, tg, ts, rate]).1,
        (runSum [s.cfg.grpCfg, s.cfg.subRateSet, 0x03, 0x00, tg, ts, rate]).2]] }
    ∧ exec (.queryRate tg ts) s = .next { s with
      turns := s.turns.tail
      sink := s.sink ++ [[s.cfg.magic0, s.cfg.magic1, s.cfg.grpCfg, s.cfg.subRateQuery, 0x02, 0x00, tg, ts,
        (runSum [s.cfg.grpCfg, s.cfg.subRateQuery, 0x02, 0x00, tg, ts]).1,
        (runSum [s.cfg.grpCfg, s.cfg.subRateQuery, 0x02, 0x00, tg, ts]).2]] }

/-- BUILD_SET_RATE and BUILD_QUERY_RATE to an accepted target respond with the 11 and the 10 bytes of the templates
(43 R170, R171; 45 R221, R222). -/
def Obligations.BuildersRespondWithFrames : Prop :=
  ∀ (s : State) (tg ts rate : Byte), targetValid s.cfg tg ts = true →
    exec (.buildSetRate tg ts rate) s = .next { s with
      turns := s.turns.tail
      responses := s.responses ++ [⟨none, .frame
        [s.cfg.magic0, s.cfg.magic1, s.cfg.grpCfg, s.cfg.subRateSet, 0x03, 0x00, tg, ts, rate,
        (runSum [s.cfg.grpCfg, s.cfg.subRateSet, 0x03, 0x00, tg, ts, rate]).1,
        (runSum [s.cfg.grpCfg, s.cfg.subRateSet, 0x03, 0x00, tg, ts, rate]).2]⟩] }
    ∧ exec (.buildQueryRate tg ts) s = .next { s with
      turns := s.turns.tail
      responses := s.responses ++ [⟨none, .frame
        [s.cfg.magic0, s.cfg.magic1, s.cfg.grpCfg, s.cfg.subRateQuery, 0x02, 0x00, tg, ts,
        (runSum [s.cfg.grpCfg, s.cfg.subRateQuery, 0x02, 0x00, tg, ts]).1,
        (runSum [s.cfg.grpCfg, s.cfg.subRateQuery, 0x02, 0x00, tg, ts]).2]⟩] }

/-- To a refused target, the build transactions report INVALID_TARGET with the target and return no bytes (43 R170 to R172;
60 R241, R249; the info in the answer is log entry 21). SET_RATE and QUERY_RATE have no frame to
hand to the sink, which answers no one: the model has no move (60 R258, log entry 6). -/
def Obligations.InvalidTargetIsReported : Prop :=
  ∀ (s : State) (i : Instr) (tg ts rate : Byte), targetValid s.cfg tg ts = false →
    (i = .buildSetRate tg ts rate ∨ i = .buildQueryRate tg ts → exec i s = .next { s with
      turns := s.turns.tail
      responses := s.responses ++ [⟨some (.invalidTarget tg ts), .empty⟩] })
    ∧ (i = .setRate tg ts rate ∨ i = .queryRate tg ts → exec i s = .refused .notBuilderOutput)

/-- A frame the builder produces passes ParseFrame's checks in every instance: a set-rate frame is consumed whole (11 bytes)
with status OK, and a query-rate frame (10 bytes) too. In every valid instance the query-rate event is UNHANDLED with its own
group, sub and target, also where `SUB_RATE_QUERY = SUB_RATE_RESP` (40 R106, 43 R171). A query with the key of ACK or NAK,
which no valid instance has (log entry 23, an inference), would be dispatched by its key (30 R68; 42 R156, R159). -/
def Obligations.BuiltFramesParse : Prop :=
  ∀ (cfg : Config) (tg ts rate : Byte),
    (parseFrame cfg (setRateFrame cfg tg ts rate)).consumed = 11
    ∧ (parseFrame cfg (setRateFrame cfg tg ts rate)).status = .ok
    ∧ (parseFrame cfg (queryRateFrame cfg tg ts)).consumed = 10
    ∧ (parseFrame cfg (queryRateFrame cfg tg ts)).status = .ok
    ∧ (cfg.valid = true →
        (parseFrame cfg (queryRateFrame cfg tg ts)).event = some (.unhandled cfg.grpCfg cfg.subRateQuery [tg, ts]))
    ∧ (cfg.meetsConstraints = true → (cfg.grpCfg, cfg.subRateQuery) = (cfg.grpResp, cfg.subAck) →
        (parseFrame cfg (queryRateFrame cfg tg ts)).event = some (.ack tg ts))
    ∧ (cfg.meetsConstraints = true → (cfg.grpCfg, cfg.subRateQuery) = (cfg.grpResp, cfg.subNak) →
        (parseFrame cfg (queryRateFrame cfg tg ts)).event = some (.nak tg ts))

/-! ## Host transactions -/

/-- FEED to an idle block: accepted, `BUSY <- 1` (45 R218). That accepting is a step of its own, in which nothing else happens
and after which APPEND is due, is the model's reading, log entry 14: 44 R180 lists no point before APPEND. -/
def Obligations.FeedIsAccepted : Prop :=
  ∀ (s : State) (chunk : Bytes), s.busy = false →
    exec (.feed chunk) s = .next { s with busy := true, framer := .append chunk, turns := s.turns.tail }

/-- LATEST: the slot of the code's kind, RMC 0, GGA 1, GLL 2, GSA 3, GSV 4, VTG 5; `None` for GST 6, GRS 7, ZDA 8 and
Unknown 9; ILLEGAL_REQUEST for a code above 9 (45 R212, R219; 30 R69, R74; 60 R241). That the info of that answer is the op
code 0x02 is the model's reading of R241, log entry 21. -/
def Obligations.LatestResponds : Prop :=
  ∀ s : State,
    (∀ p ∈ [((0 : Byte), s.snap.rmc), (1, s.snap.gga), (2, s.snap.gll), (3, s.snap.gsa), (4, s.snap.gsv),
        (5, s.snap.vtg), (6, none), (7, none), (8, none), (9, none)],
      exec (.latest p.1) s = .next { s with
        turns := s.turns.tail
        responses := s.responses ++ [⟨none, .record p.2⟩] })
    ∧ ∀ code : Byte, 9 < code.toNat → exec (.latest code) s = .next { s with
      turns := s.turns.tail
      responses := s.responses ++ [⟨some (.illegalRequest 0x02), .empty⟩] }

/-- GET_RATE responds with the key's value (45 R214, R220). -/
def Obligations.GetRateResponds : Prop :=
  ∀ (s : State) (g u : Byte), exec (.getRate g u) s = .next { s with
    turns := s.turns.tail
    responses := s.responses ++ [⟨none, .rate (Memory.read s.rate (g.toNat * 256 + u.toNat))⟩] }

/-- PARSE_FRAME, by the cases of ParseFrame: BAD_MAGIC consumes 1; too few bytes are INCOMPLETE and consume 0; a complete
frame is consumed whole, with its event where its checksum is right and CHECKSUM_MISMATCH where it is not. The event is
not applied (42 R151 to R155, R159; 45 R223). -/
def Obligations.ParseFrameResponds : Prop :=
  ∀ (s : State) (b : Bytes), ∃ r : FrameResult,
    exec (.parseFrame b) s = .next { s with
      turns := s.turns.tail
      responses := s.responses ++ [⟨none, .parsed r⟩] }
    ∧ ((b ≠ [] ∧ byteAt b 0 ≠ s.cfg.magic0) ∨ (2 ≤ b.length ∧ byteAt b 1 ≠ s.cfg.magic1) → r = ⟨1, .badMagic, none⟩)
    ∧ (b = [] ∨ b = [s.cfg.magic0] → r = ⟨0, .incomplete, none⟩)
    ∧ (2 ≤ b.length → byteAt b 0 = s.cfg.magic0 → byteAt b 1 = s.cfg.magic1 →
        b.length < 6 ∨ b.length < 8 + (byteAt b 4).toNat + 256 * (byteAt b 5).toNat → r = ⟨0, .incomplete, none⟩)
    ∧ (∀ g u payload c rest, b = encodeFrameWith s.cfg g u payload c ++ rest → payload.length ≤ 65535 →
        r = if c = runSum (frameContents g u payload)
          then ⟨8 + payload.length, .ok, some (frameEvent s.cfg g u payload)⟩
          else ⟨8 + payload.length, .checksumMismatch, none⟩)

/-- The event of a valid frame by the dispatch map: ACK, NAK and RATE with their payload bytes, in an instance that is
valid; UNHANDLED for every other group and sub and for a payload too short (30 R68; 42 R156 to R158). -/
def Obligations.DispatchMap : Prop :=
  ∀ (cfg : Config) (x y z : Byte) (more : Bytes), cfg.meetsConstraints = true →
    frameEvent cfg cfg.grpResp cfg.subAck (x :: y :: more) = .ack x y
    ∧ frameEvent cfg cfg.grpResp cfg.subNak (x :: y :: more) = .nak x y
    ∧ frameEvent cfg cfg.grpCfg cfg.subRateResp (x :: y :: z :: more) = .rate x y z
    ∧ ∀ g u payload,
        (payload.length < 2 ∨ ((g, u) ≠ (cfg.grpResp, cfg.subAck) ∧ (g, u) ≠ (cfg.grpResp, cfg.subNak))) →
        (payload.length < 3 ∨ (g, u) ≠ (cfg.grpCfg, cfg.subRateResp)) →
        frameEvent cfg g u payload = .unhandled g u payload

/-- ParseFrame's consumed length: 0 exactly when INCOMPLETE, 1 when BAD_MAGIC, at least 8 when OK or CHECKSUM_MISMATCH,
and never more than the bytes given (42 R160). -/
def Obligations.ConsumedLength : Prop :=
  ∀ (cfg : Config) (b : Bytes),
    ((parseFrame cfg b).consumed = 0 ↔ (parseFrame cfg b).status = .incomplete)
    ∧ ((parseFrame cfg b).status = .badMagic → (parseFrame cfg b).consumed = 1)
    ∧ ((parseFrame cfg b).status = .ok ∨ (parseFrame cfg b).status = .checksumMismatch →
        (parseFrame cfg b).consumed = 8 + (byteAt b 4).toNat + 256 * (byteAt b 5).toNat)
    ∧ (parseFrame cfg b).consumed ≤ b.length

/-- CLASSIFY: the code of the kind whose tag stands at offsets 3 to 5 of a text of at least 6 bytes that starts with
`'$'`, by the nine rows of the tag table (RMC 0 to ZDA 8); else 9, Unknown (41 R120, 30 R69, 45 R224). -/
def Obligations.ClassifyResponds : Prop :=
  ∀ (s : State) (text : Bytes), ∃ code : Byte,
    exec (.classify text) s = .next { s with
      turns := s.turns.tail
      responses := s.responses ++ [⟨none, .kind code⟩] }
    ∧ (∀ row ∈ [((0 : Byte), ([0x52, 0x4D, 0x43] : Bytes)), (1, [0x47, 0x47, 0x41]), (2, [0x47, 0x4C, 0x4C]),
          (3, [0x47, 0x53, 0x41]), (4, [0x47, 0x53, 0x56]), (5, [0x56, 0x54, 0x47]), (6, [0x47, 0x53, 0x54]),
          (7, [0x47, 0x52, 0x53]), (8, [0x5A, 0x44, 0x41])],
        code = row.1 ↔ 6 ≤ text.length ∧ byteAt text 0 = dollar ∧ slice text 3 6 = row.2)
    ∧ code.toNat ≤ 9

/-- VALIDATE_NMEA answers 1 exactly for `'$' body '*' HexUpper(XorSum(body))`, with one CR LF after it or without
(40 R105, 45 R225). -/
def Obligations.ValidateResponds : Prop :=
  ∀ (s : State) (text : Bytes), ∃ v : Bool,
    exec (.validateNmea text) s = .next { s with
      turns := s.turns.tail
      responses := s.responses ++ [⟨none, .bit v⟩] }
    ∧ (v = true ↔ ∃ body, text = dollar :: (body ++ star :: hexUpper (xorSum body))
        ∨ text = dollar :: (body ++ star :: (hexUpper (xorSum body) ++ [cr, lf])))

/-- PARSE_NMEA: CHECKSUM_MISMATCH before anything else; then UNRECOGNIZED_KIND with the tag bytes; then, of a sentence of
a kind, its record where the fields are accepted, and FIELD_OVERFLOW at the smallest overlong position where the policy is
Reject. Nothing is stored (41 R122, R132; 45 R226; 60 R241, R250). That an error answer carries the info of R241 beside its code is
the model's reading, log entry 21. -/
def Obligations.ParseNmeaResponds : Prop :=
  ∀ (s : State) (text : Bytes),
    (validateNmea text = false → exec (.parseNmea text) s = .next { s with
      turns := s.turns.tail
      responses := s.responses ++ [⟨some (.checksumMismatch .nmea text.length), .record none⟩] })
    ∧ (validateNmea text = true → classify text = none → exec (.parseNmea text) s = .next { s with
      turns := s.turns.tail
      responses := s.responses ++ [⟨some (.unrecognizedKind (slice text 3 (min 6 text.length))), .record none⟩] })
    ∧ (∀ k a b data, text = encodeKind k a b data ∨ text ++ [cr, lf] = encodeKind k a b data →
        (fieldsAccepted s.cfg k (kindBody k a b data) → exec (.parseNmea text) s = .next { s with
          turns := s.turns.tail
          responses := s.responses
            ++ [⟨none, .record (some ⟨k, (a, b), storedFields s.cfg k (kindBody k a b data)⟩)⟩] })
        ∧ (∀ i, s.cfg.fieldPolicy = .reject → 1 ≤ i → i ≤ fieldCount s.cfg k →
            overlong s.cfg k (kindBody k a b data) i →
            (∀ j, 1 ≤ j → j < i → ¬ overlong s.cfg k (kindBody k a b data) j) →
            exec (.parseNmea text) s = .next { s with
              turns := s.turns.tail
              responses := s.responses ++ [⟨some (.fieldOverflow k i), .record none⟩] }))

/-- The named fields of RMC and GGA stand at their positions: of a sentence with the data fields `values`, each within its
maximum, the record's field of a name is the value at the name's position, and `None` where the value is empty or missing
(41 R126, R127, R129, R130). -/
def Obligations.NamedFieldsAreFound : Prop :=
  ∀ (cfg : Config) (a b : Byte) (values : List Bytes), cfg.meetsConstraints = true → a ≠ comma → b ≠ comma →
    (∀ v ∈ values, comma ∉ v) →
    (∀ (k : Kind) (i : Nat) (v : Bytes), k = .rmc ∨ k = .gga → i < fieldCount cfg k → values[i]? = some v →
      v.length ≤ fieldMax cfg k (i + 1)) →
    [RmcField.utcTime, .status, .latitude, .nsHemisphere, .longitude, .ewHemisphere, .speedOverGround, .courseOverGround,
      .date].map rmcPosition = [1, 2, 3, 4, 5, 6, 7, 8, 9]
    ∧ [GgaField.utcTime, .latitude, .nsHemisphere, .longitude, .ewHemisphere, .fixQuality, .satelliteCount, .hdop,
      .altitude, .altitudeUnits, .geoidSeparation].map ggaPosition = [1, 2, 3, 4, 5, 6, 7, 8, 9, 10, 11]
    ∧ (∃ r, parseNmea cfg (encodeKind .rmc a b (values.flatMap (comma :: ·))) = .ok r ∧ r.talker = (a, b)
      ∧ ∀ f, fieldAt r (rmcPosition f) = (values[rmcPosition f - 1]?).filter fun v => v != [])
    ∧ (∃ r, parseNmea cfg (encodeKind .gga a b (values.flatMap (comma :: ·))) = .ok r ∧ r.talker = (a, b)
      ∧ ∀ f, fieldAt r (ggaPosition f) = (values[ggaPosition f - 1]?).filter fun v => v != [])

/-- XOR_SUM and RUN_SUM: the fold of the pseudocode from accumulators 0, the second composed low byte first
(40 R100, R102, R103; 45 R227, R228). -/
def Obligations.ChecksumsRespond : Prop :=
  ∀ (s : State) (b : Bytes),
    exec (.xorSum b) s = .next { s with
      turns := s.turns.tail
      responses := s.responses ++ [⟨none, .byte (b.foldl (fun c x => c ^^^ x) 0)⟩] }
    ∧ exec (.runSum b) s = .next { s with
      turns := s.turns.tail
      responses := s.responses ++ [⟨none, .word (BitVec.ofNat 16
        ((b.foldl (fun (c : Byte × Byte) x => (c.1 + x, c.2 + (c.1 + x))) (0, 0)).1.toNat
          + 256 * (b.foldl (fun (c : Byte × Byte) x => (c.1 + x, c.2 + (c.1 + x))) (0, 0)).2.toNat))⟩] }

/-- BUF_LEN and RESET on an idle block: the length; the start-up state of the same instance, in one step
(45 R229; 70 R270, R271). That RESET leaves the turns to come, the responses and the sink is the model's reading, log
entry 15. -/
def Obligations.BufLenAndResetRespond : Prop :=
  ∀ s : State, s.busy = false →
    exec .bufLen s = .next { s with
      turns := s.turns.tail
      responses := s.responses ++ [⟨none, .natural s.buf.length⟩] }
    ∧ exec .reset s = .next { State.start s.cfg with
      turns := s.turns.tail
      responses := s.responses ++ [⟨none, .empty⟩]
      sink := s.sink }

/-- An op code outside 0x01..0x0D responds ILLEGAL_REQUEST with the op code and changes no state (30 R74, 60 R241; the
info in the answer is log entry 21). That a request's bytes start with its op code, and that whatever bytes follow
an undefined one are its arguments (the first clause), are the model's choices, log entries 7 and 8. -/
def Obligations.IllegalRequestResponds : Prop :=
  ∀ (s : State) (op : Byte) (args : Bytes), (op = 0 ∨ 14 ≤ op.toNat) →
    decodeRequest (op :: args) = .ok (.illegalRequest op args)
    ∧ exec (.illegalRequest op args) s = .next { s with
      turns := s.turns.tail
      responses := s.responses ++ [⟨some (.illegalRequest op), .empty⟩] }
    ∧ responseCode ⟨some (.illegalRequest op), .empty⟩ = 8

/-! ## The engines and the split -/

/-- XorSum is the XOR of all bytes: 0 of none, the byte itself of one, and of a concatenation the XOR of the parts' sums
(40 R100). -/
def Obligations.XorSumOfAppend : Prop :=
  ∀ (b c : Bytes) (x : Byte), xorSum [] = 0 ∧ xorSum [x] = x ∧ xorSum (b ++ c) = xorSum b ^^^ xorSum c

/-- The closed form of the running sum: `chk1` is the byte sum, `chk2` weighs byte `i` by `|b| - i`, both mod 256
(40 R102). -/
def Obligations.RunSumClosedForm : Prop :=
  ∀ b : Bytes,
    (runSum b).1.toNat = (b.map BitVec.toNat).sum % 256
    ∧ (runSum b).2.toNat = ((List.range b.length).map fun i => (b.length - i) * (byteAt b i).toNat).sum % 256

/-- HexUpper renders the high nibble first, with '0'..'9' and 'A'..'F' (40 R101). -/
def Obligations.HexUpperDigits : Prop :=
  ∀ c : Byte, hexUpper c = [c.toNat / 16, c.toNat % 16].map fun v =>
    if v ≤ 9 then BitVec.ofNat 8 (0x30 + v) else BitVec.ofNat 8 (0x41 + (v - 10))

/-- The split at commas: one more field than commas, no comma in a field, and joining the fields with commas gives the
body back (41 R124). -/
def Obligations.SplitAtCommas : Prop :=
  ∀ body : Bytes, (splitCommas body).length = body.count comma + 1 ∧ (∀ f ∈ splitCommas body, comma ∉ f)
    ∧ [comma].intercalate (splitCommas body) = body

/-- The error codes of the table (60 R241). -/
def Obligations.ErrorCodes : Prop :=
  statusCode .ok = 0 ∧ statusCode .incomplete = 1 ∧ statusCode .badMagic = 2 ∧ statusCode .checksumMismatch = 3
    ∧ (∀ src n, errorCode (.checksumMismatch src n) = 3) ∧ (∀ n, errorCode (.bufferOverflow n) = 4)
    ∧ (∀ tag, errorCode (.unrecognizedKind tag) = 5) ∧ (∀ k i, errorCode (.fieldOverflow k i) = 6)
    ∧ (∀ tg ts, errorCode (.invalidTarget tg ts) = 7) ∧ (∀ op, errorCode (.illegalRequest op) = 8)
    ∧ ∀ r, responseCode ⟨none, r⟩ = 0
end

