-- ==== Sys2Proof/Laws/Bytes.lean ====
section
/-!
SUPPORT. The byte-sequence helpers: slices, the CR LF search, the comma split, the length bytes.
-/

namespace Sys2Proof.Machine

/-! ## Slices and single bytes -/

theorem length_slice (b : Bytes) (i j : Nat) : (slice b i j).length = min (j - i) (b.length - i) := by
  simp [slice]

theorem slice_to_end (b : Bytes) (i : Nat) : slice b i b.length = b.drop i := by
  simp only [slice]
  exact List.take_of_length_le (by simp)

theorem byteAt_drop (b : Bytes) (p i : Nat) : byteAt (b.drop p) i = byteAt b (p + i) := by
  simp [byteAt, List.getD_eq_getElem?_getD]

theorem slice_drop (b : Bytes) (p i j : Nat) : slice (b.drop p) i j = slice b (p + i) (p + j) := by
  simp only [slice, List.drop_drop]
  congr 1
  omega

@[simp] theorem byteAt_zero_cons (x : Byte) (b : Bytes) : byteAt (x :: b) 0 = x := rfl

@[simp] theorem byteAt_succ_cons (x : Byte) (b : Bytes) (i : Nat) : byteAt (x :: b) (i + 1) = byteAt b i := rfl

@[simp] theorem byteAt_nil (i : Nat) : byteAt [] i = 0 := rfl

theorem byteAt_append_left (a b : Bytes) (i : Nat) (h : i < a.length) : byteAt (a ++ b) i = byteAt a i := by
  simp [byteAt, List.getD_eq_getElem?_getD, List.getElem?_append_left h]

theorem byteAt_append_right (a b : Bytes) (i : Nat) : byteAt (a ++ b) (a.length + i) = byteAt b i := by
  simp [byteAt, List.getD_eq_getElem?_getD, List.getElem?_append_right]

theorem slice_append_left (a b : Bytes) (i j : Nat) (h : j ≤ a.length) : slice (a ++ b) i j = slice a i j := by
  simp only [slice]
  rcases Nat.lt_or_ge j i with hij | hij
  · simp [Nat.sub_eq_zero_of_le (Nat.le_of_lt hij)]
  · rw [List.drop_append_of_le_length (by omega), List.take_append_of_le_length (by simp; omega)]

theorem slice_prefix (a b : Bytes) : slice (a ++ b) 0 a.length = a := by simp [slice]

@[simp] theorem slice_succ_cons (x : Byte) (b : Bytes) (i j : Nat) : slice (x :: b) (i + 1) (j + 1) = slice b i j := by
  simp [slice]

/-! ## The CR LF search -/

/-- What the search answers: nothing when no CR LF pair stands in the bytes; else the bytes are cut around the first. -/
theorem beforeCrLf_some {b t : Bytes} (h : beforeCrLf b = some t) :
    (∃ rest, b = t ++ cr :: lf :: rest) ∧ beforeCrLf (t ++ [cr]) = none := by
  induction b generalizing t with
  | nil => simp [beforeCrLf] at h
  | cons x xs ih =>
    simp only [beforeCrLf] at h
    split at h
    · rename_i hx
      obtain rfl := Option.some.inj h
      obtain ⟨hcr, hlf⟩ := hx
      refine ⟨⟨xs.tail, ?_⟩, by simp [beforeCrLf]⟩
      cases xs with
      | nil => simp at hlf
      | cons y ys => simp at hlf; simp [hcr, hlf]
    · rename_i hx
      cases hb : beforeCrLf xs with
      | none => simp [hb] at h
      | some u =>
        simp [hb] at h
        subst h
        obtain ⟨⟨rest, hr⟩, hn⟩ := ih hb
        refine ⟨⟨rest, by simp [hr]⟩, ?_⟩
        simp only [List.cons_append, beforeCrLf]
        rw [if_neg, hn]
        · rfl
        · rintro ⟨h1, h2⟩
          apply hx
          refine ⟨h1, ?_⟩
          cases u with
          | nil => simp at h2
          | cons y ys => simp at h2; simp [hr, h2]

/-- The first CR LF of `t ++ CR LF ++ rest` is the one shown, when `t` followed by CR holds none. -/
theorem beforeCrLf_append {t rest : Bytes} (h : beforeCrLf (t ++ [cr]) = none) :
    beforeCrLf (t ++ cr :: lf :: rest) = some t := by
  induction t with
  | nil => simp [beforeCrLf]
  | cons x xs ih =>
    simp only [List.cons_append, beforeCrLf] at h ⊢
    split at h
    · simp at h
    · rename_i hx
      simp only [Option.map_eq_none_iff] at h
      rw [if_neg, ih h]
      · rfl
      · rintro ⟨h1, h2⟩
        apply hx
        refine ⟨h1, ?_⟩
        cases xs with
        | nil => simp at h2
        | cons y ys => simpa using h2

/-- Bytes without a CR LF pair, followed by any byte but LF, still hold none. -/
theorem beforeCrLf_append_of_none {b c : Bytes} (hb : beforeCrLf b = none) (hc : beforeCrLf c = none)
    (hlf : c.head? ≠ some lf) : beforeCrLf (b ++ c) = none := by
  induction b with
  | nil => simpa using hc
  | cons x xs ih =>
    simp only [List.cons_append, beforeCrLf] at hb ⊢
    split at hb
    · simp at hb
    · rename_i hx
      simp only [Option.map_eq_none_iff] at hb
      rw [if_neg, ih hb]
      · rfl
      · rintro ⟨h1, h2⟩
        cases xs with
        | nil => exact hlf (by simpa using h2)
        | cons y ys => exact hx ⟨h1, by simpa using h2⟩

/-- More bytes at the end never move the first CR LF. -/
theorem beforeCrLf_append_of_some {b c t : Bytes} (h : beforeCrLf b = some t) : beforeCrLf (b ++ c) = some t := by
  obtain ⟨⟨rest, rfl⟩, hn⟩ := beforeCrLf_some h
  simpa using beforeCrLf_append (rest := rest ++ c) hn

/-! ## The comma split -/

theorem splitCommas_ne_nil (b : Bytes) : splitCommas b ≠ [] := by
  cases b with
  | nil => simp [splitCommas]
  | cons x xs =>
    simp only [splitCommas]
    split
    · simp
    · split <;> simp

/-- Splitting past a byte that is no comma lengthens the first field. -/
theorem splitCommas_cons_of_ne {x : Byte} {b f : Bytes} {fs : List Bytes} (hx : x ≠ comma)
    (h : splitCommas b = f :: fs) : splitCommas (x :: b) = (x :: f) :: fs := by
  simp only [splitCommas, if_neg hx, h]

/-! ## Numbers -/

theorem littleEndian_toNat (low high : Byte) : (littleEndian low high).toNat = low.toNat + 256 * high.toNat := by
  have h1 : (low.setWidth 16 &&& (high.setWidth 16 <<< 8)) = 0 := by
    apply BitVec.eq_of_getLsbD_eq
    intro i hi
    simp only [BitVec.getLsbD_and, BitVec.getLsbD_setWidth, BitVec.getLsbD_shiftLeft]
    by_cases h8 : i < 8
    · simp [h8]
    · simp [BitVec.getLsbD_of_ge low i (by omega)]
  have h2 : littleEndian low high = low.setWidth 16 + (high.setWidth 16 <<< 8) :=
    (BitVec.add_eq_or_of_and_eq_zero _ _ h1).symm
  have hl := low.isLt
  have hh := high.isLt
  rw [h2, BitVec.toNat_add, BitVec.toNat_setWidth, BitVec.toNat_shiftLeft, BitVec.toNat_setWidth,
    Nat.shiftLeft_eq]
  omega

theorem payloadLength_lt (b : Bytes) : payloadLength b < 65536 := (littleEndian (byteAt b 4) (byteAt b 5)).isLt

/-- The length bytes of a payload, read back, give its length (30 R65). -/
theorem littleEndian_lengthBytes (n : Nat) (h : n ≤ 65535) :
    (littleEndian (BitVec.ofNat 8 n) (BitVec.ofNat 8 (n / 256))).toNat = n := by
  rw [littleEndian_toNat]
  simp only [BitVec.toNat_ofNat]
  omega

/-! ## Tags -/

@[simp] theorem kindOfTag_kindTag (k : Kind) : kindOfTag (kindTag k) = some k := by cases k <;> decide

@[simp] theorem length_kindTag (k : Kind) : (kindTag k).length = 3 := by cases k <;> rfl

theorem kindOfTag_some {tag : Bytes} {k : Kind} (h : kindOfTag tag = some k) : tag = kindTag k := by
  have := List.find?_some h
  simpa using (beq_iff_eq.mp this).symm

theorem star_not_mem_kindTag (k : Kind) : star ∉ kindTag k := by cases k <;> decide

end Sys2Proof.Machine
end

