-- ==== Sys2Proof/Laws/Checksum.lean ====
section
/-!
SUPPORT. The checksum engines and the NMEA checksum check.
-/

namespace Sys2Proof.Machine

theorem xorSumFrom_eq (c : Byte) (b : Bytes) : xorSumFrom c b = c ^^^ xorSum b := by
  induction b generalizing c with
  | nil => simp [xorSumFrom, xorSum]
  | cons x xs ih =>
    simp only [xorSum, xorSumFrom]
    rw [ih, ih (0 ^^^ x)]
    simp [BitVec.xor_assoc]

theorem runSumFrom_append (c1 c2 : Byte) (a b : Bytes) :
    runSumFrom c1 c2 (a ++ b) = runSumFrom (runSumFrom c1 c2 a).1 (runSumFrom c1 c2 a).2 b := by
  induction a generalizing c1 c2 with
  | nil => rfl
  | cons x xs ih => simp [runSumFrom, ih]

@[simp] theorem length_hexUpper (c : Byte) : (hexUpper c).length = 2 := rfl

/-- What the hex rendering is made of: no LF, so it never ends a CR LF pair. -/
theorem beforeCrLf_hexUpper (c : Byte) : beforeCrLf (hexUpper c ++ [cr]) = none := by
  revert c
  decide

theorem head_hexUpper (c : Byte) : (hexUpper c).head? ≠ some lf := by
  revert c
  decide

@[simp] theorem length_encodeSentence (body : Bytes) : (encodeSentence body).length = sentenceLength body.length := by
  simp [encodeSentence, sentenceLength]

/-- One trailing CR LF is stripped. -/
theorem stripCrLf_append (t : Bytes) : stripCrLf (t ++ [cr, lf]) = t := by
  have h1 : byteAt (t ++ [cr, lf]) t.length = cr := byteAt_append_right t [cr, lf] 0
  have h2 : byteAt (t ++ [cr, lf]) (t.length + 1) = lf := byteAt_append_right t [cr, lf] 1
  have hl : (t ++ [cr, lf]).length = t.length + 2 := by simp
  have e2 : t.length + 2 - 1 = t.length + 1 := by omega
  simp only [stripCrLf, hl, Nat.add_sub_cancel, e2, h1, h2]
  simp

/-- Text without a CR LF at its end stays as it is. -/
theorem stripCrLf_eq_or (text : Bytes) :
    stripCrLf text = text ∨ (∃ t, text = t ++ [cr, lf] ∧ stripCrLf text = t) := by
  by_cases h : 2 ≤ text.length ∧ byteAt text (text.length - 2) = cr ∧ byteAt text (text.length - 1) = lf
  · right
    refine ⟨text.take (text.length - 2), ?_, by simp [stripCrLf, h]⟩
    obtain ⟨h2, ha, hb⟩ := h
    conv_lhs => rw [← List.take_append_drop (text.length - 2) text]
    congr 1
    apply List.ext_getElem?
    intro i
    rw [List.getElem?_drop]
    simp only [byteAt, List.getD_eq_getElem?_getD] at ha hb
    match i with
    | 0 =>
      rw [List.getElem?_eq_getElem (by omega)] at ha
      simp only [Nat.add_zero]
      rw [List.getElem?_eq_getElem (by omega)]
      simpa using ha
    | 1 =>
      rw [List.getElem?_eq_getElem (by omega)] at hb
      rw [List.getElem?_eq_getElem (by omega)]
      have : text.length - 2 + 1 = text.length - 1 := by omega
      simp only [this]
      simpa using hb
    | n + 2 =>
      rw [List.getElem?_eq_none (by omega)]
      simp
  · left
    simp only [stripCrLf]
    rw [if_neg h]

/-- The parts of `'$' body '*' H1 H2`. -/
theorem sentence_parts (body hex : Bytes) (hh : hex.length = 2) :
    sentenceBody (dollar :: (body ++ star :: hex)) = body
    ∧ byteAt (dollar :: (body ++ star :: hex)) ((dollar :: (body ++ star :: hex)).length - 3) = star
    ∧ slice (dollar :: (body ++ star :: hex)) ((dollar :: (body ++ star :: hex)).length - 2)
        (dollar :: (body ++ star :: hex)).length = hex := by
  have hl : (dollar :: (body ++ star :: hex)).length = body.length + 4 := by simp [hh]
  refine ⟨?_, ?_, ?_⟩
  · rw [sentenceBody, hl]
    have : body.length + 4 - 3 = body.length + 1 := by omega
    rw [this, slice_succ_cons]
    exact slice_prefix _ _
  · rw [hl]
    have : body.length + 4 - 3 = body.length + 1 := by omega
    rw [this, byteAt_succ_cons]
    simpa using byteAt_append_right body (star :: hex) 0
  · rw [slice_to_end, hl]
    have : body.length + 4 - 2 = body.length + 1 + 1 := by omega
    rw [this, List.drop_succ_cons]
    simp [List.drop_append]

/-- What ValidateNmea accepts: exactly the texts `'$' body '*' HexUpper(XorSum(body))`, with one CR LF or without
(40 R105). -/
theorem validateNmea_iff (text : Bytes) :
    validateNmea text = true ↔
      ∃ body, stripCrLf text = dollar :: (body ++ star :: hexUpper (xorSum body)) := by
  constructor
  · intro h
    simp only [validateNmea] at h
    split at h
    · simp at h
    · rename_i h4
      split at h
      · simp at h
      · rename_i hd
        split at h
        · simp at h
        · rename_i hs
          generalize stripCrLf text = t at *
          refine ⟨sentenceBody t, ?_⟩
          simp only [beq_iff_eq] at h
          simp only [ne_eq, not_not] at hd hs
          rw [← h, slice_to_end]
          match t, h4, hd, hs with
          | x :: rest, h4, hd, hs =>
            simp only [byteAt_zero_cons] at hd
            subst hd
            congr 1
            have hlen : (dollar :: rest).length = rest.length + 1 := rfl
            have h3 : 3 ≤ rest.length := by simp at h4; omega
            have e3 : rest.length + 1 - 3 = rest.length - 3 + 1 := by omega
            have e2 : rest.length + 1 - 2 = rest.length - 3 + 1 + 1 := by omega
            rw [sentenceBody, hlen, e3, slice_succ_cons, e2, List.drop_succ_cons]
            rw [hlen, e3, byteAt_succ_cons] at hs
            simp only [slice, List.drop_zero, Nat.sub_zero]
            conv_lhs => rw [← List.take_append_drop (rest.length - 3) rest]
            congr 1
            rw [List.drop_eq_getElem_cons (by omega)]
            congr 1
            simp only [byteAt, List.getD_eq_getElem?_getD] at hs
            rw [List.getElem?_eq_getElem (by omega)] at hs
            simpa using hs
  · rintro ⟨body, hb⟩
    obtain ⟨p1, p2, p3⟩ := sentence_parts body (hexUpper (xorSum body)) rfl
    simp only [validateNmea, hb, p1, p2, p3]
    simp

/-- The sentence of a body passes its own check (40 R105). -/
theorem validateNmea_encodeSentence (body : Bytes) : validateNmea (encodeSentence body) = true := by
  rw [validateNmea_iff]
  refine ⟨body, ?_⟩
  have : encodeSentence body = (dollar :: (body ++ star :: hexUpper (xorSum body))) ++ [cr, lf] := by
    simp [encodeSentence]
  rw [this, stripCrLf_append]

end Sys2Proof.Machine
end

