-- ==== Sys2Proof/Laws/Decode.lean ====
section
/-!
SUPPORT. The decoders: what a candidate span and a frame decode to, once and for all.
-/

namespace Sys2Proof.Machine

/-! ## Sentences -/

/-- A slice that reaches a byte no tag holds names no kind. -/
theorem kindOfTag_eq_none_of_star {tag : Bytes} (h : star ∈ tag) : kindOfTag tag = none := by
  cases hk : kindOfTag tag with
  | none => rfl
  | some k =>
    rw [kindOfTag_some hk] at h
    exact absurd h (star_not_mem_kindTag k)

theorem kindOfTag_eq_none_of_length {tag : Bytes} (h : tag.length ≠ 3) : kindOfTag tag = none := by
  cases hk : kindOfTag tag with
  | none => rfl
  | some k =>
    rw [kindOfTag_some hk] at h
    exact absurd (length_kindTag k) h

/-- A sentence is classified by the bytes 2..4 of its body (41 R120). -/
theorem classify_encodeSentence (body : Bytes) : classify (encodeSentence body) = kindOfTag (slice body 2 5) := by
  have hlen : 6 ≤ (encodeSentence body).length := by simp [sentenceLength]
  have h0 : byteAt (encodeSentence body) 0 = dollar := rfl
  simp only [classify, h0, ne_eq, not_true_eq_false, or_false]
  rw [if_neg (by omega)]
  have hs : slice (encodeSentence body) 3 6 = slice (body ++ star :: (hexUpper (xorSum body) ++ [cr, lf])) 2 5 := rfl
  rw [hs]
  rcases Nat.lt_or_ge body.length 5 with h | h
  · have hr : kindOfTag (slice body 2 5) = none := by
      apply kindOfTag_eq_none_of_length
      rw [length_slice]
      omega
    rw [hr]
    match body, h with
    | [], _ =>
      simp only [List.nil_append, xorSum, xorSumFrom]
      decide
    | [a], _ =>
      simp only [List.cons_append, List.nil_append, xorSum, xorSumFrom]
      revert a
      decide
    | [a, b], _ => exact kindOfTag_eq_none_of_star (by simp [slice])
    | [a, b, c], _ => exact kindOfTag_eq_none_of_star (by simp [slice])
    | [a, b, c, d], _ => exact kindOfTag_eq_none_of_star (by simp [slice])
  · rw [slice_append_left _ _ _ _ h]

/-- The body of a sentence, read back (30 R63). -/
theorem sentenceBody_encodeSentence (body : Bytes) : sentenceBody (stripCrLf (encodeSentence body)) = body := by
  have : encodeSentence body = (dollar :: (body ++ star :: hexUpper (xorSum body))) ++ [cr, lf] := by
    simp [encodeSentence]
  rw [this, stripCrLf_append]
  exact (sentence_parts body _ rfl).1

/-- A body that names a kind has its tag after the two talker bytes. -/
theorem body_of_kindOfTag {body : Bytes} {k : Kind} (h : kindOfTag (slice body 2 5) = some k) :
    ∃ a b data, body = a :: b :: (kindTag k ++ data) := by
  have hs := kindOfTag_some h
  have hl : (slice body 2 5).length = 3 := by rw [hs, length_kindTag]
  rw [length_slice] at hl
  match body, hl with
  | a :: b :: rest, _ =>
    refine ⟨a, b, rest.drop 3, ?_⟩
    have : slice (a :: b :: rest) 2 5 = rest.take 3 := by simp [slice]
    rw [← hs, this, List.take_append_drop]

theorem slice_body_kind (a b : Byte) (k : Kind) (data : Bytes) :
    slice (a :: b :: (kindTag k ++ data)) 2 5 = kindTag k := by
  cases k <;> rfl

/-- A sentence of a kind decodes to its row (30 R69). -/
theorem decodeSpan_encodeKind (k : Kind) (a b : Byte) (data : Bytes) :
    decodeSpan (encodeKind k a b data) = sentenceInstr k a b data := by
  have hb := sentenceBody_encodeSentence (a :: b :: (kindTag k ++ data))
  have hc := classify_encodeSentence (a :: b :: (kindTag k ++ data))
  rw [slice_body_kind, kindOfTag_kindTag] at hc
  simp only [decodeSpan, encodeKind, hb, hc]
  cases k <;> rfl

/-- A sentence whose tag names no kind decodes to NMEA_UNKNOWN (30 R69). -/
theorem decodeSpan_unknown (body : Bytes) (h : kindOfTag (slice body 2 5) = none) :
    decodeSpan (encodeSentence body) = .nmeaUnknown body := by
  have hb := sentenceBody_encodeSentence body
  have hc := classify_encodeSentence body
  rw [h] at hc
  simp only [decodeSpan, hb, hc]

/-- Every candidate span that passes the check is the sentence of some body (40 R105). -/
theorem span_of_validateNmea {text : Bytes} (h : validateNmea (dollar :: (text ++ [cr, lf])) = true) :
    ∃ body, dollar :: (text ++ [cr, lf]) = encodeSentence body := by
  obtain ⟨body, hb⟩ := (validateNmea_iff _).mp h
  refine ⟨body, ?_⟩
  have : dollar :: (text ++ [cr, lf]) = (dollar :: text) ++ [cr, lf] := rfl
  rw [this, stripCrLf_append] at hb
  rw [this, hb]
  simp [encodeSentence]

/-- The search for CR LF finds the end of a sentence whose body holds none (30 R67). -/
theorem beforeCrLf_encodeSentence (body rest : Bytes) (h : noCrLf body = true) :
    beforeCrLf (body ++ star :: (hexUpper (xorSum body) ++ [cr, lf]) ++ rest)
      = some (body ++ star :: hexUpper (xorSum body)) := by
  have hn : beforeCrLf ((body ++ star :: hexUpper (xorSum body)) ++ [cr]) = none := by
    rw [List.append_assoc]
    apply beforeCrLf_append_of_none (by simpa [noCrLf] using h)
    · simp only [List.cons_append, beforeCrLf]
      rw [if_neg (fun h => absurd h.1 (by decide)), beforeCrLf_hexUpper]
      rfl
    · simp
  have := beforeCrLf_append (rest := rest) hn
  simpa using this

/-- A sentence at the front decodes as its span does, whatever follows. -/
theorem decodeSentence_append (cfg : Config) (body rest : Bytes) (h : noCrLf body = true) :
    decodeElement cfg (encodeSentence body ++ rest) = .ok (decodeSpan (encodeSentence body)) := by
  have hb := beforeCrLf_encodeSentence body rest h
  have hv := validateNmea_encodeSentence body
  have hspan : dollar :: ((body ++ star :: hexUpper (xorSum body)) ++ [cr, lf]) = encodeSentence body := by
    simp [encodeSentence]
  have he : encodeSentence body ++ rest
      = dollar :: (body ++ star :: (hexUpper (xorSum body) ++ [cr, lf]) ++ rest) := rfl
  rw [he]
  simp only [decodeElement, if_true, decodeSentence, hb, hspan, hv]

/-! ## Frames -/

/-- A complete frame at the front of bytes, cut into its parts (30 R64). -/
theorem frame_parts (cfg : Config) (g u : Byte) (payload : Bytes) (ck : Byte × Byte) (rest : Bytes)
    (h : payload.length ≤ 65535) :
    let b := encodeFrameWith cfg g u payload ck ++ rest
    b.length = frameLength payload.length + rest.length
    ∧ payloadLength b = payload.length
    ∧ byteAt b 2 = g ∧ byteAt b 3 = u
    ∧ slice b 6 (6 + payload.length) = payload
    ∧ byteAt b (6 + payload.length) = ck.1 ∧ byteAt b (7 + payload.length) = ck.2
    ∧ slice b 2 (6 + payload.length) = frameContents g u payload := by
  intro b
  have hb : b = cfg.magic0 :: cfg.magic1 :: g :: u :: BitVec.ofNat 8 payload.length
      :: BitVec.ofNat 8 (payload.length / 256) :: (payload ++ (ck.1 :: ck.2 :: rest)) := by
    simp [b, encodeFrameWith, frameContents, lengthBytes]
  refine ⟨?_, ?_, ?_, ?_, ?_, ?_, ?_, ?_⟩
  · rw [hb]
    simp [frameLength]
    omega
  · rw [hb]
    exact littleEndian_lengthBytes _ h
  · rw [hb]; rfl
  · rw [hb]; rfl
  · rw [hb]
    simp [slice]
  · rw [hb, Nat.add_comm]
    exact byteAt_append_right payload _ 0
  · rw [hb, show 7 + payload.length = (payload.length + 1) + 6 by omega]
    exact byteAt_append_right payload _ 1
  · rw [hb, slice, show 6 + payload.length - 2 = payload.length + 4 by omega]
    simp [frameContents, lengthBytes]

/-- A complete frame at the front decodes by its checksum and the dispatch map, whatever follows (30 R68, 42 R155). -/
theorem decodeFrame_append (cfg : Config) (g u : Byte) (payload : Bytes) (ck : Byte × Byte) (rest : Bytes)
    (h : payload.length ≤ 65535) (hm : cfg.magic0 ≠ dollar) :
    decodeElement cfg (encodeFrameWith cfg g u payload ck ++ rest)
      = if ck = runSum (frameContents g u payload) then .ok (dispatchInstr cfg g u payload)
        else .ok (.binBadChecksum g u payload ck.1 ck.2) := by
  obtain ⟨h1, h2, h3, h4, h5, h6, h7, h8⟩ := frame_parts cfg g u payload ck rest h
  have hd : decodeElement cfg (encodeFrameWith cfg g u payload ck ++ rest)
      = decodeFrame cfg (encodeFrameWith cfg g u payload ck ++ rest) := by
    simp only [encodeFrameWith, List.cons_append, decodeElement, if_neg hm, if_true]
  rw [hd]
  simp only [decodeFrame, h1, h2, h3, h4, h5, h6, h7, h8]
  rw [if_neg (by simp only [frameLength]; omega), if_neg (by omega)]

/-- A frame that is all there is its parts put together (30 R64). -/
theorem eq_encodeFrameWith {cfg : Config} {b : Bytes} (h0 : byteAt b 0 = cfg.magic0) (h1 : byteAt b 1 = cfg.magic1)
    (hl : frameLength (payloadLength b) ≤ b.length) :
    b = encodeFrameWith cfg (byteAt b 2) (byteAt b 3) (slice b 6 (6 + payloadLength b))
          (byteAt b (6 + payloadLength b), byteAt b (7 + payloadLength b))
        ++ b.drop (frameLength (payloadLength b)) := by
  have hp := payloadLength_lt b
  have hlen : (slice b 6 (6 + payloadLength b)).length = payloadLength b := by
    rw [length_slice]
    simp only [frameLength] at hl
    omega
  generalize hn : payloadLength b = n at *
  simp only [frameLength] at hl ⊢
  rcases b with _ | ⟨b0, _ | ⟨b1, _ | ⟨b2, _ | ⟨b3, _ | ⟨b4, _ | ⟨b5, rest⟩⟩⟩⟩⟩⟩
  iterate 6 exact absurd hl (by simp only [List.length_cons, List.length_nil]; omega)
  · simp only [byteAt_zero_cons, byteAt_succ_cons] at h0 h1
    subst h0
    have hs : slice (cfg.magic0 :: b1 :: b2 :: b3 :: b4 :: b5 :: rest) 6 (6 + n) = rest.take n := by simp [slice]
    have hv : (littleEndian b4 b5).toNat = n := hn
    rw [littleEndian_toNat] at hv
    have h4 := b4.isLt
    have h5 := b5.isLt
    have e4 : BitVec.ofNat 8 n = b4 := BitVec.eq_of_toNat_eq (by simp only [BitVec.toNat_ofNat]; omega)
    have e5 : BitVec.ofNat 8 (n / 256) = b5 := BitVec.eq_of_toNat_eq (by simp only [BitVec.toNat_ofNat]; omega)
    have hr : n + 2 ≤ rest.length := by simp only [List.length_cons] at hl; omega
    rw [hs] at hlen ⊢
    have a1 : byteAt (cfg.magic0 :: b1 :: b2 :: b3 :: b4 :: b5 :: rest) (6 + n) = byteAt rest n := by
      rw [Nat.add_comm]; rfl
    have a2 : byteAt (cfg.magic0 :: b1 :: b2 :: b3 :: b4 :: b5 :: rest) (7 + n) = byteAt rest (n + 1) := by
      rw [show 7 + n = (n + 1) + 6 by omega]; rfl
    have d1 : (cfg.magic0 :: b1 :: b2 :: b3 :: b4 :: b5 :: rest).drop (8 + n) = rest.drop (n + 2) := by
      rw [show 8 + n = (n + 2) + 6 by omega]; rfl
    rw [a1, a2, d1]
    simp only [encodeFrameWith, frameContents, lengthBytes, hlen, e4, e5, byteAt_succ_cons, byteAt_zero_cons, ← h1,
      List.cons_append, List.nil_append, List.append_assoc]
    have t1 : byteAt rest n = rest[n] := by
      simp [byteAt, List.getD_eq_getElem?_getD, List.getElem?_eq_getElem (show n < rest.length by omega)]
    have t2 : byteAt rest (n + 1) = rest[n + 1] := by
      simp [byteAt, List.getD_eq_getElem?_getD, List.getElem?_eq_getElem (show n + 1 < rest.length by omega)]
    rw [t1, t2]
    congr 6
    conv_lhs => rw [← List.take_append_drop n rest]
    congr 1
    rw [List.drop_eq_getElem_cons (by omega), List.drop_eq_getElem_cons (by omega)]

/-- A frame that is all there, as bytes put together from parts that fit, with what its checksum covers (30 R66). -/
theorem frame_of_bytes {cfg : Config} {b : Bytes} (h0 : byteAt b 0 = cfg.magic0) (h1 : byteAt b 1 = cfg.magic1)
    (hl : frameLength (payloadLength b) ≤ b.length) :
    ∃ rest, b = encodeFrameWith cfg (byteAt b 2) (byteAt b 3) (slice b 6 (6 + payloadLength b))
          (byteAt b (6 + payloadLength b), byteAt b (7 + payloadLength b)) ++ rest
      ∧ (slice b 6 (6 + payloadLength b)).length = payloadLength b
      ∧ slice b 2 (6 + payloadLength b)
          = frameContents (byteAt b 2) (byteAt b 3) (slice b 6 (6 + payloadLength b)) := by
  have he := eq_encodeFrameWith h0 h1 hl
  have hp := payloadLength_lt b
  have hlen : (slice b 6 (6 + payloadLength b)).length = payloadLength b := by
    rw [length_slice]
    simp only [frameLength] at hl
    omega
  obtain ⟨-, -, -, -, -, -, -, h8⟩ := frame_parts cfg (byteAt b 2) (byteAt b 3)
    (slice b 6 (6 + payloadLength b)) (byteAt b (6 + payloadLength b), byteAt b (7 + payloadLength b))
    (b.drop (frameLength (payloadLength b))) (by omega)
  rw [← he, hlen] at h8
  exact ⟨_, he, hlen, h8⟩

/-- All that the decoder answers on bytes that start with both magic bytes (44 R184 (b)). -/
theorem decodeFrame_cases {cfg : Config} {b : Bytes} (h0 : byteAt b 0 = cfg.magic0) (h1 : byteAt b 1 = cfg.magic1) :
    ((b.length < 6 ∨ b.length < frameLength (payloadLength b)) ∧ decodeFrame cfg b = .error .incompleteFrame)
    ∨ ∃ g u payload ck rest, b = encodeFrameWith cfg g u payload ck ++ rest ∧ payload.length ≤ 65535
        ∧ decodeFrame cfg b = if ck = runSum (frameContents g u payload) then .ok (dispatchInstr cfg g u payload)
            else .ok (.binBadChecksum g u payload ck.1 ck.2) := by
  by_cases h6 : b.length < 6
  · exact .inl ⟨.inl h6, by simp only [decodeFrame, h6, if_true]⟩
  · by_cases hT : b.length < frameLength (payloadLength b)
    · exact .inl ⟨.inr hT, by simp only [decodeFrame, h6, hT, if_true, if_false]⟩
    · obtain ⟨rest, he, hlen, h8⟩ := frame_of_bytes h0 h1 (by omega)
      have hp := payloadLength_lt b
      refine .inr ⟨_, _, _, _, rest, he, by omega, ?_⟩
      simp only [decodeFrame, h6, hT, if_false, h8]

end Sys2Proof.Machine
end

