-- ==== Sys2Proof/Laws/State.lean ====
section
/-!
SUPPORT. One lemma per field per update of State, so that no proof unfolds a record update.
-/

namespace Sys2Proof.Machine

/-! ### updateSnapshot -/

@[simp] theorem updateSnapshot_cfg (k : Kind) (r : Record) (s : State) : (updateSnapshot k r s).cfg = s.cfg := rfl
@[simp] theorem updateSnapshot_buf (k : Kind) (r : Record) (s : State) : (updateSnapshot k r s).buf = s.buf := rfl
@[simp] theorem updateSnapshot_snap (k : Kind) (r : Record) (s : State) : (updateSnapshot k r s).snap = s.snap.set k r := rfl
@[simp] theorem updateSnapshot_rate (k : Kind) (r : Record) (s : State) : (updateSnapshot k r s).rate = s.rate := rfl
@[simp] theorem updateSnapshot_out (k : Kind) (r : Record) (s : State) : (updateSnapshot k r s).out = s.out := rfl
@[simp] theorem updateSnapshot_diag (k : Kind) (r : Record) (s : State) : (updateSnapshot k r s).diag = s.diag := rfl
@[simp] theorem updateSnapshot_busy (k : Kind) (r : Record) (s : State) : (updateSnapshot k r s).busy = s.busy := rfl
@[simp] theorem updateSnapshot_framer (k : Kind) (r : Record) (s : State) : (updateSnapshot k r s).framer = s.framer := rfl
@[simp] theorem updateSnapshot_turns (k : Kind) (r : Record) (s : State) : (updateSnapshot k r s).turns = s.turns := rfl
@[simp] theorem updateSnapshot_responses (k : Kind) (r : Record) (s : State) : (updateSnapshot k r s).responses = s.responses := rfl
@[simp] theorem updateSnapshot_sink (k : Kind) (r : Record) (s : State) : (updateSnapshot k r s).sink = s.sink := rfl

/-! ### setRateEntry -/

@[simp] theorem setRateEntry_cfg (g u r : Byte) (s : State) : (setRateEntry g u r s).cfg = s.cfg := rfl
@[simp] theorem setRateEntry_buf (g u r : Byte) (s : State) : (setRateEntry g u r s).buf = s.buf := rfl
@[simp] theorem setRateEntry_snap (g u r : Byte) (s : State) : (setRateEntry g u r s).snap = s.snap := rfl
@[simp] theorem setRateEntry_rate (g u r : Byte) (s : State) : (setRateEntry g u r s).rate = Memory.write s.rate (rateKey g u) r := rfl
@[simp] theorem setRateEntry_out (g u r : Byte) (s : State) : (setRateEntry g u r s).out = s.out := rfl
@[simp] theorem setRateEntry_diag (g u r : Byte) (s : State) : (setRateEntry g u r s).diag = s.diag := rfl
@[simp] theorem setRateEntry_busy (g u r : Byte) (s : State) : (setRateEntry g u r s).busy = s.busy := rfl
@[simp] theorem setRateEntry_framer (g u r : Byte) (s : State) : (setRateEntry g u r s).framer = s.framer := rfl
@[simp] theorem setRateEntry_turns (g u r : Byte) (s : State) : (setRateEntry g u r s).turns = s.turns := rfl
@[simp] theorem setRateEntry_responses (g u r : Byte) (s : State) : (setRateEntry g u r s).responses = s.responses := rfl
@[simp] theorem setRateEntry_sink (g u r : Byte) (s : State) : (setRateEntry g u r s).sink = s.sink := rfl

/-! ### emit -/

@[simp] theorem emit_cfg (e : Event) (s : State) : (emit e s).cfg = s.cfg := rfl
@[simp] theorem emit_buf (e : Event) (s : State) : (emit e s).buf = s.buf := rfl
@[simp] theorem emit_snap (e : Event) (s : State) : (emit e s).snap = s.snap := rfl
@[simp] theorem emit_rate (e : Event) (s : State) : (emit e s).rate = s.rate := rfl
@[simp] theorem emit_out (e : Event) (s : State) : (emit e s).out = s.out ++ [e] := rfl
@[simp] theorem emit_diag (e : Event) (s : State) : (emit e s).diag = s.diag := rfl
@[simp] theorem emit_busy (e : Event) (s : State) : (emit e s).busy = s.busy := rfl
@[simp] theorem emit_framer (e : Event) (s : State) : (emit e s).framer = s.framer := rfl
@[simp] theorem emit_turns (e : Event) (s : State) : (emit e s).turns = s.turns := rfl
@[simp] theorem emit_responses (e : Event) (s : State) : (emit e s).responses = s.responses := rfl
@[simp] theorem emit_sink (e : Event) (s : State) : (emit e s).sink = s.sink := rfl

/-! ### logDiag -/

@[simp] theorem logDiag_cfg (e : ErrorRecord) (s : State) : (logDiag e s).cfg = s.cfg := rfl
@[simp] theorem logDiag_buf (e : ErrorRecord) (s : State) : (logDiag e s).buf = s.buf := rfl
@[simp] theorem logDiag_snap (e : ErrorRecord) (s : State) : (logDiag e s).snap = s.snap := rfl
@[simp] theorem logDiag_rate (e : ErrorRecord) (s : State) : (logDiag e s).rate = s.rate := rfl
@[simp] theorem logDiag_out (e : ErrorRecord) (s : State) : (logDiag e s).out = s.out := rfl
@[simp] theorem logDiag_diag (e : ErrorRecord) (s : State) : (logDiag e s).diag = s.diag ++ [e] := rfl
@[simp] theorem logDiag_busy (e : ErrorRecord) (s : State) : (logDiag e s).busy = s.busy := rfl
@[simp] theorem logDiag_framer (e : ErrorRecord) (s : State) : (logDiag e s).framer = s.framer := rfl
@[simp] theorem logDiag_turns (e : ErrorRecord) (s : State) : (logDiag e s).turns = s.turns := rfl
@[simp] theorem logDiag_responses (e : ErrorRecord) (s : State) : (logDiag e s).responses = s.responses := rfl
@[simp] theorem logDiag_sink (e : ErrorRecord) (s : State) : (logDiag e s).sink = s.sink := rfl

/-! ### advance -/

@[simp] theorem advance_cfg (n : Nat) (s : State) : (advance n s).cfg = s.cfg := rfl
@[simp] theorem advance_buf (n : Nat) (s : State) : (advance n s).buf = s.buf := rfl
@[simp] theorem advance_snap (n : Nat) (s : State) : (advance n s).snap = s.snap := rfl
@[simp] theorem advance_rate (n : Nat) (s : State) : (advance n s).rate = s.rate := rfl
@[simp] theorem advance_out (n : Nat) (s : State) : (advance n s).out = s.out := rfl
@[simp] theorem advance_diag (n : Nat) (s : State) : (advance n s).diag = s.diag := rfl
@[simp] theorem advance_busy (n : Nat) (s : State) : (advance n s).busy = s.busy := rfl
@[simp] theorem advance_framer (n : Nat) (s : State) : (advance n s).framer = advanceFramer n s.framer := rfl
@[simp] theorem advance_turns (n : Nat) (s : State) : (advance n s).turns = s.turns := rfl
@[simp] theorem advance_responses (n : Nat) (s : State) : (advance n s).responses = s.responses := rfl
@[simp] theorem advance_sink (n : Nat) (s : State) : (advance n s).sink = s.sink := rfl

/-! ### stopScan -/

@[simp] theorem stopScan_cfg (p : Nat) (s : State) : (stopScan p s).cfg = s.cfg := rfl
@[simp] theorem stopScan_buf (p : Nat) (s : State) : (stopScan p s).buf = s.buf := rfl
@[simp] theorem stopScan_snap (p : Nat) (s : State) : (stopScan p s).snap = s.snap := rfl
@[simp] theorem stopScan_rate (p : Nat) (s : State) : (stopScan p s).rate = s.rate := rfl
@[simp] theorem stopScan_out (p : Nat) (s : State) : (stopScan p s).out = s.out := rfl
@[simp] theorem stopScan_diag (p : Nat) (s : State) : (stopScan p s).diag = s.diag := rfl
@[simp] theorem stopScan_busy (p : Nat) (s : State) : (stopScan p s).busy = s.busy := rfl
@[simp] theorem stopScan_framer (p : Nat) (s : State) : (stopScan p s).framer = .compact p := rfl
@[simp] theorem stopScan_turns (p : Nat) (s : State) : (stopScan p s).turns = s.turns := rfl
@[simp] theorem stopScan_responses (p : Nat) (s : State) : (stopScan p s).responses = s.responses := rfl
@[simp] theorem stopScan_sink (p : Nat) (s : State) : (stopScan p s).sink = s.sink := rfl

/-! ### appendBuf -/

@[simp] theorem appendBuf_cfg (c : Bytes) (s : State) : (appendBuf c s).cfg = s.cfg := rfl
@[simp] theorem appendBuf_buf (c : Bytes) (s : State) : (appendBuf c s).buf = s.buf ++ c := rfl
@[simp] theorem appendBuf_snap (c : Bytes) (s : State) : (appendBuf c s).snap = s.snap := rfl
@[simp] theorem appendBuf_rate (c : Bytes) (s : State) : (appendBuf c s).rate = s.rate := rfl
@[simp] theorem appendBuf_out (c : Bytes) (s : State) : (appendBuf c s).out = s.out := rfl
@[simp] theorem appendBuf_diag (c : Bytes) (s : State) : (appendBuf c s).diag = s.diag := rfl
@[simp] theorem appendBuf_busy (c : Bytes) (s : State) : (appendBuf c s).busy = s.busy := rfl
@[simp] theorem appendBuf_framer (c : Bytes) (s : State) : (appendBuf c s).framer = s.framer := rfl
@[simp] theorem appendBuf_turns (c : Bytes) (s : State) : (appendBuf c s).turns = s.turns := rfl
@[simp] theorem appendBuf_responses (c : Bytes) (s : State) : (appendBuf c s).responses = s.responses := rfl
@[simp] theorem appendBuf_sink (c : Bytes) (s : State) : (appendBuf c s).sink = s.sink := rfl

/-! ### dropBuf -/

@[simp] theorem dropBuf_cfg (p : Nat) (s : State) : (dropBuf p s).cfg = s.cfg := rfl
@[simp] theorem dropBuf_buf (p : Nat) (s : State) : (dropBuf p s).buf = s.buf.drop p := rfl
@[simp] theorem dropBuf_snap (p : Nat) (s : State) : (dropBuf p s).snap = s.snap := rfl
@[simp] theorem dropBuf_rate (p : Nat) (s : State) : (dropBuf p s).rate = s.rate := rfl
@[simp] theorem dropBuf_out (p : Nat) (s : State) : (dropBuf p s).out = s.out := rfl
@[simp] theorem dropBuf_diag (p : Nat) (s : State) : (dropBuf p s).diag = s.diag := rfl
@[simp] theorem dropBuf_busy (p : Nat) (s : State) : (dropBuf p s).busy = s.busy := rfl
@[simp] theorem dropBuf_framer (p : Nat) (s : State) : (dropBuf p s).framer = s.framer := rfl
@[simp] theorem dropBuf_turns (p : Nat) (s : State) : (dropBuf p s).turns = s.turns := rfl
@[simp] theorem dropBuf_responses (p : Nat) (s : State) : (dropBuf p s).responses = s.responses := rfl
@[simp] theorem dropBuf_sink (p : Nat) (s : State) : (dropBuf p s).sink = s.sink := rfl

/-! ### clearBuf -/

@[simp] theorem clearBuf_cfg (s : State) : (clearBuf s).cfg = s.cfg := rfl
@[simp] theorem clearBuf_buf (s : State) : (clearBuf s).buf = [] := rfl
@[simp] theorem clearBuf_snap (s : State) : (clearBuf s).snap = s.snap := rfl
@[simp] theorem clearBuf_rate (s : State) : (clearBuf s).rate = s.rate := rfl
@[simp] theorem clearBuf_out (s : State) : (clearBuf s).out = s.out := rfl
@[simp] theorem clearBuf_diag (s : State) : (clearBuf s).diag = s.diag := rfl
@[simp] theorem clearBuf_busy (s : State) : (clearBuf s).busy = s.busy := rfl
@[simp] theorem clearBuf_framer (s : State) : (clearBuf s).framer = s.framer := rfl
@[simp] theorem clearBuf_turns (s : State) : (clearBuf s).turns = s.turns := rfl
@[simp] theorem clearBuf_responses (s : State) : (clearBuf s).responses = s.responses := rfl
@[simp] theorem clearBuf_sink (s : State) : (clearBuf s).sink = s.sink := rfl

/-! ### startFeed -/

@[simp] theorem startFeed_cfg (c : Bytes) (s : State) : (startFeed c s).cfg = s.cfg := rfl
@[simp] theorem startFeed_buf (c : Bytes) (s : State) : (startFeed c s).buf = s.buf := rfl
@[simp] theorem startFeed_snap (c : Bytes) (s : State) : (startFeed c s).snap = s.snap := rfl
@[simp] theorem startFeed_rate (c : Bytes) (s : State) : (startFeed c s).rate = s.rate := rfl
@[simp] theorem startFeed_out (c : Bytes) (s : State) : (startFeed c s).out = s.out := rfl
@[simp] theorem startFeed_diag (c : Bytes) (s : State) : (startFeed c s).diag = s.diag := rfl
@[simp] theorem startFeed_busy (c : Bytes) (s : State) : (startFeed c s).busy = true := rfl
@[simp] theorem startFeed_framer (c : Bytes) (s : State) : (startFeed c s).framer = .append c := rfl
@[simp] theorem startFeed_turns (c : Bytes) (s : State) : (startFeed c s).turns = s.turns := rfl
@[simp] theorem startFeed_responses (c : Bytes) (s : State) : (startFeed c s).responses = s.responses := rfl
@[simp] theorem startFeed_sink (c : Bytes) (s : State) : (startFeed c s).sink = s.sink := rfl

/-! ### endFeed -/

@[simp] theorem endFeed_cfg (s : State) : (endFeed s).cfg = s.cfg := rfl
@[simp] theorem endFeed_buf (s : State) : (endFeed s).buf = s.buf := rfl
@[simp] theorem endFeed_snap (s : State) : (endFeed s).snap = s.snap := rfl
@[simp] theorem endFeed_rate (s : State) : (endFeed s).rate = s.rate := rfl
@[simp] theorem endFeed_out (s : State) : (endFeed s).out = s.out := rfl
@[simp] theorem endFeed_diag (s : State) : (endFeed s).diag = s.diag := rfl
@[simp] theorem endFeed_busy (s : State) : (endFeed s).busy = false := rfl
@[simp] theorem endFeed_framer (s : State) : (endFeed s).framer = .idle := rfl
@[simp] theorem endFeed_turns (s : State) : (endFeed s).turns = s.turns := rfl
@[simp] theorem endFeed_responses (s : State) : (endFeed s).responses = s.responses := rfl
@[simp] theorem endFeed_sink (s : State) : (endFeed s).sink = s.sink := rfl

/-! ### takeTurn -/

@[simp] theorem takeTurn_cfg (s : State) : (takeTurn s).cfg = s.cfg := rfl
@[simp] theorem takeTurn_buf (s : State) : (takeTurn s).buf = s.buf := rfl
@[simp] theorem takeTurn_snap (s : State) : (takeTurn s).snap = s.snap := rfl
@[simp] theorem takeTurn_rate (s : State) : (takeTurn s).rate = s.rate := rfl
@[simp] theorem takeTurn_out (s : State) : (takeTurn s).out = s.out := rfl
@[simp] theorem takeTurn_diag (s : State) : (takeTurn s).diag = s.diag := rfl
@[simp] theorem takeTurn_busy (s : State) : (takeTurn s).busy = s.busy := rfl
@[simp] theorem takeTurn_framer (s : State) : (takeTurn s).framer = s.framer := rfl
@[simp] theorem takeTurn_turns (s : State) : (takeTurn s).turns = s.turns.tail := rfl
@[simp] theorem takeTurn_responses (s : State) : (takeTurn s).responses = s.responses := rfl
@[simp] theorem takeTurn_sink (s : State) : (takeTurn s).sink = s.sink := rfl

/-! ### pushResponse -/

@[simp] theorem pushResponse_cfg (r : Response) (s : State) : (pushResponse r s).cfg = s.cfg := rfl
@[simp] theorem pushResponse_buf (r : Response) (s : State) : (pushResponse r s).buf = s.buf := rfl
@[simp] theorem pushResponse_snap (r : Response) (s : State) : (pushResponse r s).snap = s.snap := rfl
@[simp] theorem pushResponse_rate (r : Response) (s : State) : (pushResponse r s).rate = s.rate := rfl
@[simp] theorem pushResponse_out (r : Response) (s : State) : (pushResponse r s).out = s.out := rfl
@[simp] theorem pushResponse_diag (r : Response) (s : State) : (pushResponse r s).diag = s.diag := rfl
@[simp] theorem pushResponse_busy (r : Response) (s : State) : (pushResponse r s).busy = s.busy := rfl
@[simp] theorem pushResponse_framer (r : Response) (s : State) : (pushResponse r s).framer = s.framer := rfl
@[simp] theorem pushResponse_turns (r : Response) (s : State) : (pushResponse r s).turns = s.turns := rfl
@[simp] theorem pushResponse_responses (r : Response) (s : State) : (pushResponse r s).responses = s.responses ++ [r] := rfl
@[simp] theorem pushResponse_sink (r : Response) (s : State) : (pushResponse r s).sink = s.sink := rfl

/-! ### respond -/

@[simp] theorem respond_cfg (r : Result) (s : State) : (respond r s).cfg = s.cfg := rfl
@[simp] theorem respond_buf (r : Result) (s : State) : (respond r s).buf = s.buf := rfl
@[simp] theorem respond_snap (r : Result) (s : State) : (respond r s).snap = s.snap := rfl
@[simp] theorem respond_rate (r : Result) (s : State) : (respond r s).rate = s.rate := rfl
@[simp] theorem respond_out (r : Result) (s : State) : (respond r s).out = s.out := rfl
@[simp] theorem respond_diag (r : Result) (s : State) : (respond r s).diag = s.diag := rfl
@[simp] theorem respond_busy (r : Result) (s : State) : (respond r s).busy = s.busy := rfl
@[simp] theorem respond_framer (r : Result) (s : State) : (respond r s).framer = s.framer := rfl
@[simp] theorem respond_turns (r : Result) (s : State) : (respond r s).turns = s.turns.tail := rfl
@[simp] theorem respond_responses (r : Result) (s : State) : (respond r s).responses = s.responses ++ [⟨none, r⟩] := rfl
@[simp] theorem respond_sink (r : Result) (s : State) : (respond r s).sink = s.sink := rfl

/-! ### respondError -/

@[simp] theorem respondError_cfg (e : ErrorRecord) (r : Result) (s : State) : (respondError e r s).cfg = s.cfg := rfl
@[simp] theorem respondError_buf (e : ErrorRecord) (r : Result) (s : State) : (respondError e r s).buf = s.buf := rfl
@[simp] theorem respondError_snap (e : ErrorRecord) (r : Result) (s : State) : (respondError e r s).snap = s.snap := rfl
@[simp] theorem respondError_rate (e : ErrorRecord) (r : Result) (s : State) : (respondError e r s).rate = s.rate := rfl
@[simp] theorem respondError_out (e : ErrorRecord) (r : Result) (s : State) : (respondError e r s).out = s.out := rfl
@[simp] theorem respondError_diag (e : ErrorRecord) (r : Result) (s : State) : (respondError e r s).diag = s.diag := rfl
@[simp] theorem respondError_busy (e : ErrorRecord) (r : Result) (s : State) : (respondError e r s).busy = s.busy := rfl
@[simp] theorem respondError_framer (e : ErrorRecord) (r : Result) (s : State) : (respondError e r s).framer = s.framer := rfl
@[simp] theorem respondError_turns (e : ErrorRecord) (r : Result) (s : State) : (respondError e r s).turns = s.turns.tail := rfl
@[simp] theorem respondError_responses (e : ErrorRecord) (r : Result) (s : State) : (respondError e r s).responses = s.responses ++ [⟨some e, r⟩] := rfl
@[simp] theorem respondError_sink (e : ErrorRecord) (r : Result) (s : State) : (respondError e r s).sink = s.sink := rfl

/-! ### transmit -/

@[simp] theorem transmit_cfg (f : Bytes) (s : State) : (transmit f s).cfg = s.cfg := rfl
@[simp] theorem transmit_buf (f : Bytes) (s : State) : (transmit f s).buf = s.buf := rfl
@[simp] theorem transmit_snap (f : Bytes) (s : State) : (transmit f s).snap = s.snap := rfl
@[simp] theorem transmit_rate (f : Bytes) (s : State) : (transmit f s).rate = s.rate := rfl
@[simp] theorem transmit_out (f : Bytes) (s : State) : (transmit f s).out = s.out := rfl
@[simp] theorem transmit_diag (f : Bytes) (s : State) : (transmit f s).diag = s.diag := rfl
@[simp] theorem transmit_busy (f : Bytes) (s : State) : (transmit f s).busy = s.busy := rfl
@[simp] theorem transmit_framer (f : Bytes) (s : State) : (transmit f s).framer = s.framer := rfl
@[simp] theorem transmit_turns (f : Bytes) (s : State) : (transmit f s).turns = s.turns.tail := rfl
@[simp] theorem transmit_responses (f : Bytes) (s : State) : (transmit f s).responses = s.responses := rfl
@[simp] theorem transmit_sink (f : Bytes) (s : State) : (transmit f s).sink = s.sink ++ [f] := rfl

/-! ### resetBlock -/

@[simp] theorem resetBlock_cfg (s : State) : (resetBlock s).cfg = s.cfg := rfl
@[simp] theorem resetBlock_buf (s : State) : (resetBlock s).buf = [] := rfl
@[simp] theorem resetBlock_snap (s : State) : (resetBlock s).snap = Snapshots.reset := rfl
@[simp] theorem resetBlock_rate (s : State) : (resetBlock s).rate = [] := rfl
@[simp] theorem resetBlock_out (s : State) : (resetBlock s).out = [] := rfl
@[simp] theorem resetBlock_diag (s : State) : (resetBlock s).diag = [] := rfl
@[simp] theorem resetBlock_busy (s : State) : (resetBlock s).busy = false := rfl
@[simp] theorem resetBlock_framer (s : State) : (resetBlock s).framer = .idle := rfl
@[simp] theorem resetBlock_turns (s : State) : (resetBlock s).turns = s.turns := rfl
@[simp] theorem resetBlock_responses (s : State) : (resetBlock s).responses = s.responses := rfl
@[simp] theorem resetBlock_sink (s : State) : (resetBlock s).sink = s.sink := rfl

/-! ### appendStep -/

@[simp] theorem appendStep_cfg (c : Bytes) (s : State) : (appendStep c s).cfg = s.cfg := rfl
@[simp] theorem appendStep_buf (c : Bytes) (s : State) : (appendStep c s).buf = s.buf ++ c := rfl
@[simp] theorem appendStep_snap (c : Bytes) (s : State) : (appendStep c s).snap = s.snap := rfl
@[simp] theorem appendStep_rate (c : Bytes) (s : State) : (appendStep c s).rate = s.rate := rfl
@[simp] theorem appendStep_out (c : Bytes) (s : State) : (appendStep c s).out = s.out := rfl
@[simp] theorem appendStep_diag (c : Bytes) (s : State) : (appendStep c s).diag = s.diag := rfl
@[simp] theorem appendStep_busy (c : Bytes) (s : State) : (appendStep c s).busy = s.busy := rfl
@[simp] theorem appendStep_framer (c : Bytes) (s : State) : (appendStep c s).framer = .scan 0 := rfl
@[simp] theorem appendStep_turns (c : Bytes) (s : State) : (appendStep c s).turns = s.turns := rfl
@[simp] theorem appendStep_responses (c : Bytes) (s : State) : (appendStep c s).responses = s.responses := rfl
@[simp] theorem appendStep_sink (c : Bytes) (s : State) : (appendStep c s).sink = s.sink := rfl

/-! ### compactStep -/

@[simp] theorem compactStep_cfg (p : Nat) (s : State) : (compactStep p s).cfg = s.cfg := rfl
@[simp] theorem compactStep_buf (p : Nat) (s : State) : (compactStep p s).buf = s.buf.drop p := rfl
@[simp] theorem compactStep_snap (p : Nat) (s : State) : (compactStep p s).snap = s.snap := rfl
@[simp] theorem compactStep_rate (p : Nat) (s : State) : (compactStep p s).rate = s.rate := rfl
@[simp] theorem compactStep_out (p : Nat) (s : State) : (compactStep p s).out = s.out := rfl
@[simp] theorem compactStep_diag (p : Nat) (s : State) : (compactStep p s).diag = s.diag := rfl
@[simp] theorem compactStep_busy (p : Nat) (s : State) : (compactStep p s).busy = s.busy := rfl
@[simp] theorem compactStep_framer (p : Nat) (s : State) : (compactStep p s).framer = .bound := rfl
@[simp] theorem compactStep_turns (p : Nat) (s : State) : (compactStep p s).turns = s.turns := rfl
@[simp] theorem compactStep_responses (p : Nat) (s : State) : (compactStep p s).responses = s.responses := rfl
@[simp] theorem compactStep_sink (p : Nat) (s : State) : (compactStep p s).sink = s.sink := rfl

end Sys2Proof.Machine
end

