-- ==== Sys2Proof/Laws/Binary.lean ====
section
/-!
SUPPORT. ParseFrame and the routing of a frame: what each can do, said once.
-/

namespace Sys2Proof.Machine

/-- All that routing an event changes (44 R187): the rate table for a rate report, and one event. -/
theorem routeEvent_eq (e : Event) (s : State) :
    routeEvent e s = { s with
      rate := match e with
        | .rate g u r => Memory.write s.rate (rateKey g u) r
        | _ => s.rate
      out := s.out ++ [e] } := by
  cases e <;> rfl

/-- The row of a valid frame does what 42 R159 and 44 R187 ask: its event, routed, the cursor past the frame. -/
theorem exec_dispatchInstr (g u : Byte) (payload : Bytes) (s : State) :
    exec (dispatchInstr s.cfg g u payload) s
      = .next (acceptFrame (frameEvent s.cfg g u payload) payload.length s) := by
  simp only [dispatchInstr, frameEvent]
  split
  · rename_i h
    obtain ⟨-, -, h⟩ := h
    rcases payload with _ | ⟨a, _ | ⟨b, rest⟩⟩
    · simp at h
    · simp at h
    · rfl
  · split
    · rename_i h
      obtain ⟨-, -, h⟩ := h
      rcases payload with _ | ⟨a, _ | ⟨b, rest⟩⟩
      · simp at h
      · simp at h
      · rfl
    · split
      · rename_i h
        obtain ⟨-, -, h⟩ := h
        rcases payload with _ | ⟨a, _ | ⟨b, _ | ⟨c, rest⟩⟩⟩
        · simp at h
        · simp at h
        · simp at h
        · rfl
      · rfl

/-- All that ParseFrame can answer on bytes that start with both magic bytes (42 R153 to R158). -/
theorem parseFrame_of_magic {cfg : Config} {b : Bytes} (h2 : 2 ≤ b.length) (h0 : byteAt b 0 = cfg.magic0)
    (h1 : byteAt b 1 = cfg.magic1) :
    ((b.length < 6 ∨ b.length < frameLength (payloadLength b)) ∧ parseFrame cfg b = ⟨0, .incomplete, none⟩)
    ∨ ∃ g u payload ck rest, b = encodeFrameWith cfg g u payload ck ++ rest ∧ payload.length ≤ 65535
        ∧ parseFrame cfg b = if ck = runSum (frameContents g u payload)
            then ⟨frameLength payload.length, .ok, some (frameEvent cfg g u payload)⟩
            else ⟨frameLength payload.length, .checksumMismatch, none⟩ := by
  by_cases h6 : b.length < 6
  · left
    refine ⟨.inl h6, ?_⟩
    simp only [parseFrame, h0, h1, h6]
    rw [if_neg (by omega), if_neg (by simp), if_neg (by omega)]
    simp
  · by_cases hT : b.length < frameLength (payloadLength b)
    · left
      refine ⟨.inr hT, ?_⟩
      simp only [parseFrame, h0, h1, h6, hT]
      rw [if_neg (by omega), if_neg (by simp), if_neg (by omega)]
      simp
    · right
      obtain ⟨rest, he, hlen, h8⟩ := frame_of_bytes h0 h1 (by omega)
      have hp := payloadLength_lt b
      refine ⟨_, _, _, _, rest, he, by omega, ?_⟩
      rw [← h8, hlen]
      simp only [parseFrame, h0, h1, h6, hT]
      rw [if_neg (by omega), if_neg (by simp), if_neg (by omega), if_neg (by simp)]
      simp only [if_false]
      by_cases hck : (byteAt b (6 + payloadLength b), byteAt b (7 + payloadLength b))
          = runSum (slice b 2 (6 + payloadLength b))
      · rw [if_pos hck, if_neg]
        rw [← hck]
        simp
      · rw [if_neg hck, if_pos]
        by_contra hne
        simp only [ne_eq, not_or, not_not] at hne
        exact hck (Prod.ext hne.1 hne.2)

end Sys2Proof.Machine
end

