-- ==== Sys2Proof/Laws/Memory.lean ====
section
/-!
SUPPORT. The keyed store: reading back what was written, the canonical form kept by every operation, and the snapshot
slots.
-/

namespace Sys2Proof.Machine

theorem Memory.read_write_same (m : Memory) (a : Nat) (v : Byte) : Memory.read (Memory.write m a v) a = some v := by
  induction m with
  | nil => simp [Memory.write, Memory.read]
  | cons c rest ih =>
    obtain ⟨b, w⟩ := c
    simp only [Memory.write]
    split
    · simp [Memory.read]
    · split
      · simp [Memory.read]
      · rename_i h1 h2
        simp [Memory.read, h2, ih]

theorem Memory.read_write_other (m : Memory) (a b : Nat) (v : Byte) (h : b ≠ a) :
    Memory.read (Memory.write m a v) b = Memory.read m b := by
  induction m with
  | nil => simp [Memory.write, Memory.read, h]
  | cons c rest ih =>
    obtain ⟨d, w⟩ := c
    simp only [Memory.write]
    split
    · simp [Memory.read, h]
    · split
      · rename_i h1 h2
        subst h2
        simp [Memory.read, h]
      · simp [Memory.read, ih]

theorem Memory.above_write (m : Memory) (a b : Nat) (v : Byte) (hm : Memory.above b m = true) (hb : b < a) :
    Memory.above b (Memory.write m a v) = true := by
  induction m with
  | nil => simpa [Memory.write, Memory.above] using hb
  | cons c rest ih =>
    obtain ⟨d, w⟩ := c
    simp only [Memory.above, List.all_cons, Bool.and_eq_true, decide_eq_true_eq] at hm ih
    simp only [Memory.write]
    split
    · simp [Memory.above]
      exact ⟨hb, hm.1, by simpa using hm.2⟩
    · split
      · simp [Memory.above]
        exact ⟨hb, by simpa using hm.2⟩
      · simp only [Memory.above, List.all_cons, Bool.and_eq_true, decide_eq_true_eq]
        exact ⟨hm.1, ih hm.2⟩

theorem Memory.above_mono {m : Memory} {a b : Nat} (hm : Memory.above b m = true) (h : a ≤ b) :
    Memory.above a m = true := by
  simp only [Memory.above, List.all_eq_true, decide_eq_true_eq] at hm ⊢
  intro c hc
  exact lt_of_le_of_lt h (hm c hc)

/-- A write of a 16-bit key keeps the canonical form. -/
theorem Memory.wf_write (m : Memory) (a : Nat) (v : Byte) (hm : Memory.wf m = true) (ha : a < 65536) :
    Memory.wf (Memory.write m a v) = true := by
  induction m with
  | nil => simp [Memory.write, Memory.wf, Memory.above, ha]
  | cons c rest ih =>
    obtain ⟨d, w⟩ := c
    simp only [Memory.wf, Bool.and_eq_true, decide_eq_true_eq] at hm
    obtain ⟨⟨hd, habove⟩, hrest⟩ := hm
    simp only [Memory.write]
    split
    · rename_i h1
      simp only [Memory.wf, Bool.and_eq_true, decide_eq_true_eq]
      refine ⟨⟨ha, ?_⟩, ⟨hd, habove⟩, hrest⟩
      have := Memory.above_mono habove (Nat.le_of_lt h1)
      simp only [Memory.above, List.all_cons, Bool.and_eq_true, decide_eq_true_eq]
      exact ⟨h1, this⟩
    · split
      · rename_i h1 h2
        subst h2
        simp [Memory.wf, ha, habove, hrest]
      · rename_i h1 h2
        simp only [Memory.wf, Bool.and_eq_true, decide_eq_true_eq]
        exact ⟨⟨hd, Memory.above_write _ _ _ _ habove (by omega)⟩, ih hrest⟩

theorem rateKey_lt (g u : Byte) : rateKey g u < 65536 := by
  have := g.isLt
  have := u.isLt
  simp only [rateKey]
  omega

/-- Different sentence ids have different keys. -/
theorem rateKey_inj {g u g' u' : Byte} (h : rateKey g u = rateKey g' u') : g = g' ∧ u = u' := by
  have := g.isLt
  have := u.isLt
  have := g'.isLt
  have := u'.isLt
  simp only [rateKey] at h
  exact ⟨BitVec.eq_of_toNat_eq (by omega), BitVec.eq_of_toNat_eq (by omega)⟩

/-- All that `setRate` does to the table. -/
theorem setRateEntry_spec (g u r : Byte) (s : State) :
    rateOf g u (setRateEntry g u r s) = some r
    ∧ (∀ g' u', (g', u') ≠ (g, u) → rateOf g' u' (setRateEntry g u r s) = rateOf g' u' s)
    ∧ (Memory.wf s.rate = true → Memory.wf (setRateEntry g u r s).rate = true) := by
  refine ⟨Memory.read_write_same _ _ _, fun g' u' h => ?_, fun h => Memory.wf_write _ _ _ h (rateKey_lt g u)⟩
  exact Memory.read_write_other _ _ _ _ fun e => h (by rw [(rateKey_inj e).1, (rateKey_inj e).2])

/-- All that replacing a slot does: its kind's slot holds the record, every other slot stays. -/
theorem Snapshots.set_spec (t : Snapshots) (k : Kind) (r : Record) :
    (hasSlot k = true → (t.set k r).get k = some r)
    ∧ (∀ j, j ≠ k → (t.set k r).get j = t.get j)
    ∧ (hasSlot k = false → t.set k r = t) := by
  refine ⟨?_, ?_, ?_⟩
  · cases k <;> simp [hasSlot, Snapshots.set, Snapshots.get]
  · intro j hj
    cases k <;> cases j <;> first | rfl | exact absurd rfl hj
  · cases k <;> simp [hasSlot, Snapshots.set]

theorem Memory.wf_reset : Memory.wf State.reset.rate = true := rfl

end Sys2Proof.Machine
end

