-- ==== Sys2Proof/Laws/Nmea.lean ====
section
/-!
SUPPORT. ParseNmea, records and the routing of a sentence: what each can do, said once.
-/

namespace Sys2Proof.Machine

/-! ## Records -/

/-- A record is built with its kind and talker as given; only its fields come from the body (41 R125, R126). -/
theorem buildRecord_ok {cfg : Config} {k : Kind} {talker : Byte × Byte} {body : Bytes} {r : Record}
    (h : buildRecord cfg k talker body = .ok r) :
    r.kind = k ∧ r.talker = talker
    ∧ mapFields cfg.fieldPolicy k 1 (fieldMaxima cfg k) (splitCommas body).tail = .ok r.fields := by
  simp only [buildRecord] at h
  cases hm : mapFields cfg.fieldPolicy k 1 (fieldMaxima cfg k) (splitCommas body).tail with
  | error e => simp [hm, Except.map] at h
  | ok fields =>
    simp only [hm, Except.map, Except.ok.injEq] at h
    subst h
    exact ⟨rfl, rfl, rfl⟩

/-- The only error of the field mapping is FIELD_OVERFLOW of the kind, under policy Reject (41 R128). -/
theorem mapFields_error {policy : FieldPolicy} {k : Kind} {i : Nat} {maxima : List Nat} {data : List Bytes}
    {e : ErrorRecord} (h : mapFields policy k i maxima data = .error e) :
    policy = .reject ∧ ∃ j, i ≤ j ∧ e = .fieldOverflow k j := by
  induction maxima generalizing i data with
  | nil => simp [mapFields] at h
  | cons m ms ih =>
    have step : ∀ (x : Option Bytes) (d : List Bytes),
        (mapFields policy k (i + 1) ms d).map (x :: ·) = .error e → policy = .reject ∧ ∃ j, i ≤ j ∧ e = .fieldOverflow k j := by
      intro x d hx
      cases hm : mapFields policy k (i + 1) ms d with
      | ok f => simp [hm, Except.map] at hx
      | error e' =>
        simp only [hm, Except.map, Except.error.injEq] at hx
        subst hx
        obtain ⟨hp, j, hj, he⟩ := ih hm
        exact ⟨hp, j, by omega, he⟩
    cases data with
    | nil => exact step _ _ h
    | cons d ds =>
      simp only [mapFields] at h
      split at h
      · exact step _ _ h
      · split at h
        · cases policy with
          | reject =>
            simp only [Except.error.injEq] at h
            exact ⟨rfl, i, le_refl _, h.symm⟩
          | truncate => exact step _ _ h
        · exact step _ _ h

theorem buildRecord_error {cfg : Config} {k : Kind} {talker : Byte × Byte} {body : Bytes} {e : ErrorRecord}
    (h : buildRecord cfg k talker body = .error e) : cfg.fieldPolicy = .reject ∧ ∃ j, 1 ≤ j ∧ e = .fieldOverflow k j := by
  simp only [buildRecord] at h
  cases hm : mapFields cfg.fieldPolicy k 1 (fieldMaxima cfg k) (splitCommas body).tail with
  | ok fields => simp [hm, Except.map] at h
  | error e' =>
    simp only [hm, Except.map, Except.error.injEq] at h
    subst h
    exact mapFields_error hm

/-- All that ParseNmea can answer (41 R132). -/
theorem parseNmea_cases (cfg : Config) (text : Bytes) :
    (validateNmea text = false ∧ parseNmea cfg text = .error (.checksumMismatch .nmea text.length))
    ∨ (validateNmea text = true ∧ classify text = none ∧ parseNmea cfg text = .error (.unrecognizedKind (tagInfo text)))
    ∨ ∃ k, validateNmea text = true ∧ classify text = some k
        ∧ parseNmea cfg text = buildRecord cfg k (byteAt (stripCrLf text) 1, byteAt (stripCrLf text) 2)
            (sentenceBody (stripCrLf text)) := by
  cases hv : validateNmea text with
  | false => left; simp [parseNmea, hv]
  | true =>
    right
    cases hc : classify text with
    | none => left; simp [parseNmea, hv, hc]
    | some k => right; exact ⟨k, rfl, rfl, by simp [parseNmea, hv, hc]⟩

/-- ParseNmea of a sentence of a kind is the split-and-map of its body. -/
theorem parseNmea_encodeKind (cfg : Config) (k : Kind) (a b : Byte) (data : Bytes) :
    parseNmea cfg (encodeKind k a b data) = buildRecord cfg k (a, b) (a :: b :: (kindTag k ++ data)) := by
  have hv := validateNmea_encodeSentence (a :: b :: (kindTag k ++ data))
  have hb := sentenceBody_encodeSentence (a :: b :: (kindTag k ++ data))
  have hc := classify_encodeSentence (a :: b :: (kindTag k ++ data))
  rw [slice_body_kind, kindOfTag_kindTag] at hc
  have ht : stripCrLf (encodeSentence (a :: b :: (kindTag k ++ data)))
      = dollar :: a :: b :: (kindTag k ++ data ++ star :: hexUpper (xorSum (a :: b :: (kindTag k ++ data)))) := by
    have : encodeSentence (a :: b :: (kindTag k ++ data))
        = (dollar :: a :: b :: (kindTag k ++ data ++ star :: hexUpper (xorSum (a :: b :: (kindTag k ++ data)))))
          ++ [cr, lf] := by simp [encodeSentence]
    rw [this, stripCrLf_append]
  simp only [parseNmea, encodeKind, hv, hc, hb]
  rw [ht]
  simp

/-- ParseNmea of a sentence that names no kind. -/
theorem parseNmea_unknown (cfg : Config) (body : Bytes) (h : kindOfTag (slice body 2 5) = none) :
    parseNmea cfg (encodeSentence body) = .error (.unrecognizedKind (tagInfo (encodeSentence body))) := by
  have hv := validateNmea_encodeSentence body
  have hc := classify_encodeSentence body
  rw [h] at hc
  simp [parseNmea, hv, hc]

/-! ## Routing -/

/-- All that routing an accepted record changes (44 R186): its slot, if its kind has one, and one event. -/
theorem acceptRecord_eq (r : Record) (s : State) :
    acceptRecord r s = { s with snap := s.snap.set r.kind r, out := s.out ++ [.nmea r] } := by
  simp only [acceptRecord]
  split
  · rfl
  · rename_i h
    have hs := (Snapshots.set_spec s.snap r.kind r).2.2 (by simpa using h)
    rw [hs]
    rfl

/-- All that routing a ParseNmea result does (44 R186). -/
theorem routeSentence_cases (r : Except ErrorRecord Record) (n : Nat) (s : State) :
    (∃ rec, r = .ok rec ∧ routeSentence r n s
      = { s with snap := s.snap.set rec.kind rec, out := s.out ++ [.nmea rec], framer := advanceFramer n s.framer })
    ∨ ∃ e, r = .error e ∧ routeSentence r n s
      = { s with diag := s.diag ++ [e], framer := advanceFramer n s.framer } := by
  cases r with
  | ok rec => left; exact ⟨rec, rfl, by simp only [routeSentence, acceptRecord_eq, advance]⟩
  | error e => right; exact ⟨e, rfl, rfl⟩

/-- The row that a sentence decodes to does what 44 R183 asks: ParseNmea of the span, routed, the cursor past it. -/
theorem exec_decodeSpan (body : Bytes) (s : State) :
    exec (decodeSpan (encodeSentence body)) s
      = .next (routeSentence (parseNmea s.cfg (encodeSentence body)) (encodeSentence body).length s) := by
  cases hk : kindOfTag (slice body 2 5) with
  | none =>
    rw [decodeSpan_unknown body hk, parseNmea_unknown _ _ hk]
    simp [exec, execNmeaUnknown]
  | some k =>
    obtain ⟨a, b, data, rfl⟩ := body_of_kindOfTag hk
    have h1 := decodeSpan_encodeKind k a b data
    have h2 := parseNmea_encodeKind s.cfg k a b data
    simp only [encodeKind] at h1 h2
    rw [h1, h2, length_encodeSentence]
    cases k <;> rfl

end Sys2Proof.Machine
end

