-- ==== Sys2Proof/Laws/Framer.lean ====
section
/-!
SUPPORT. The framer's step: everything a SCAN step can do (44 R182 to R187), said once, and the other internal steps.
-/

namespace Sys2Proof.Machine

/-- Everything the element at the front of the remaining bytes can be (44 R182). -/
inductive ScanCase (s : State) (pos : Nat) (t : State) : Prop where
  /-- The scan stops; from the cursor on the buffer has a rest form (10 R22). -/
  | stop (rest : restForm s.cfg (s.buf.drop pos) = true) (eq : t = stopScan pos s)
  /-- A candidate span, which ends at the first CR LF after its `'$'`, is parsed and routed. -/
  | sentence (text rest : Bytes) (bytes : s.buf.drop pos = (dollar :: (text ++ [cr, lf])) ++ rest)
      (first : beforeCrLf (text ++ [cr]) = none)
      (eq : t = routeSentence (parseNmea s.cfg (dollar :: (text ++ [cr, lf]))) (text.length + 3) s)
  /-- A complete frame with a valid checksum is routed. -/
  | frame (g u : Byte) (payload rest : Bytes) (fits : payload.length ≤ 65535)
      (bytes : s.buf.drop pos = encodeFrame s.cfg g u payload ++ rest)
      (eq : t = acceptFrame (frameEvent s.cfg g u payload) payload.length s)
  /-- A complete frame with another checksum is logged and skipped. -/
  | badFrame (g u : Byte) (payload : Bytes) (ck : Byte × Byte) (rest : Bytes) (fits : payload.length ≤ 65535)
      (bytes : s.buf.drop pos = encodeFrameWith s.cfg g u payload ck ++ rest)
      (bad : ck ≠ runSum (frameContents g u payload))
      (eq : t = advance (frameLength payload.length)
        (logDiag (.checksumMismatch .bin (frameLength payload.length)) s))
  /-- One noise byte is skipped. -/
  | noise (x : Byte) (rest : Bytes) (bytes : s.buf.drop pos = x :: rest) (ne : x ≠ dollar)
      (notFrame : x = s.cfg.magic0 → rest.head? ≠ some s.cfg.magic1)
      (notLone : x = s.cfg.magic0 → rest = [] → s.cfg.retainLoneMagic0 = false)
      (eq : t = advance 1 s)

/-- The framer's step while it scans is one of these cases. -/
theorem framerStep_scan {s : State} {pos : Nat} (h : s.framer = .scan pos) :
    ∃ t, framerStep s = .next t ∧ ScanCase s pos t := by
  simp only [framerStep, framerMove, h]
  cases hb : s.buf.drop pos with
  | nil => exact ⟨_, rfl, .stop (by rw [hb]; rfl) rfl⟩
  | cons x rest =>
    simp only [decodeElement]
    by_cases hd : x = dollar
    · subst hd
      simp only [if_true, decodeSentence]
      cases hc : beforeCrLf rest with
      | none => exact ⟨_, rfl, .stop (by rw [hb]; simp [restForm, noCrLf, hc]) rfl⟩
      | some text =>
        obtain ⟨⟨rest', hr⟩, hfirst⟩ := beforeCrLf_some hc
        have hbytes : s.buf.drop pos = (dollar :: (text ++ [cr, lf])) ++ rest' := by rw [hb, hr]; simp
        cases hv : validateNmea (dollar :: (text ++ [cr, lf])) with
        | true =>
          obtain ⟨body, hbody⟩ := span_of_validateNmea hv
          have hlen : (encodeSentence body).length = text.length + 3 := by rw [← hbody]; simp
          refine ⟨_, ?_, .sentence text rest' hbytes hfirst rfl⟩
          rw [hbody] at hv
          simp only [hbody, hv, if_true]
          rw [exec_decodeSpan, hlen]
        | false =>
          refine ⟨_, ?_, .sentence text rest' hbytes hfirst rfl⟩
          simp only [hv, Bool.false_eq_true, if_false, parseNmea, if_true, routeSentence, scanWithout]
          simp
    · rw [if_neg hd]
      by_cases hm : x = s.cfg.magic0
      · rw [if_pos hm]
        cases rest with
        | nil =>
          by_cases hr : s.cfg.retainLoneMagic0 = true
          · simp only [hr, if_true]
            exact ⟨_, rfl, .stop (by rw [hb]; simp [restForm, hm, hr]) rfl⟩
          · simp only [hr]
            exact ⟨_, rfl, .noise x [] hb hd (fun _ => by simp) (fun _ _ => by simpa using hr) rfl⟩
        | cons y ys =>
          simp only
          by_cases hy : y = s.cfg.magic1
          · rw [if_pos hy]
            have h0 : byteAt (x :: y :: ys) 0 = s.cfg.magic0 := hm
            have h1 : byteAt (x :: y :: ys) 1 = s.cfg.magic1 := hy
            rcases decodeFrame_cases h0 h1 with ⟨hshort, he⟩ | ⟨g, u, payload, ck, rest, he, hfit, hdec⟩
            · rw [he]
              refine ⟨_, rfl, .stop ?_ rfl⟩
              rw [hb]
              simp only [restForm, Bool.or_eq_true, Bool.and_eq_true, beq_iff_eq, decide_eq_true_eq]
              left; right
              exact ⟨⟨hm, by simp [hy]⟩, hshort⟩
            · rw [hdec]
              by_cases hck : ck = runSum (frameContents g u payload)
              · rw [if_pos hck]
                refine ⟨_, exec_dispatchInstr _ _ _ _, .frame g u payload rest hfit ?_ rfl⟩
                rw [hb, encodeFrame, ← hck]
                exact he
              · rw [if_neg hck]
                exact ⟨_, rfl, .badFrame g u payload ck rest hfit (by rw [hb]; exact he) hck rfl⟩
          · rw [if_neg hy]
            exact ⟨_, rfl, .noise x (y :: ys) hb hd (fun _ => by simpa using hy) (fun _ h => by simp at h) rfl⟩
      · rw [if_neg hm]
        exact ⟨_, rfl, .noise x rest hb hd (fun h => absurd h hm) (fun h => absurd h hm) rfl⟩

end Sys2Proof.Machine
end

