-- ==== Sys2Proof/Laws/PerInstr.lean ====
section
/-!
SUPPORT. Statements about every instruction, one lemma per constructor: the length of an instruction's bytes (spec 30).
-/

namespace Sys2Proof.Laws.EncodedLength

open Sys2Proof.Machine

/-- How many bytes the encoding of an instruction has, by the layouts of 30 R61, R64, R71 to R73. -/
def byteCount : Instr → Nat
  | .nmeaRmc _ _ data => data.length + 11
  | .nmeaGga _ _ data => data.length + 11
  | .nmeaGll _ _ data => data.length + 11
  | .nmeaGsa _ _ data => data.length + 11
  | .nmeaGsv _ _ data => data.length + 11
  | .nmeaVtg _ _ data => data.length + 11
  | .nmeaGst _ _ data => data.length + 11
  | .nmeaGrs _ _ data => data.length + 11
  | .nmeaZda _ _ data => data.length + 11
  | .nmeaUnknown body => body.length + 6
  | .binAck payload => payload.length + 8
  | .binNak payload => payload.length + 8
  | .binRateResp payload => payload.length + 8
  | .binUnhandled _ _ payload => payload.length + 8
  | .binBadChecksum _ _ payload _ _ => payload.length + 8
  | .noise _ => 1
  | .setRate _ _ _ => 11
  | .queryRate _ _ => 10
  | .feed chunk => chunk.length + 1
  | .latest _ => 2
  | .getRate _ _ => 3
  | .buildSetRate _ _ _ => 4
  | .buildQueryRate _ _ => 3
  | .parseFrame bytes => bytes.length + 1
  | .classify text => text.length + 1
  | .validateNmea text => text.length + 1
  | .parseNmea text => text.length + 1
  | .xorSum bytes => bytes.length + 1
  | .runSum bytes => bytes.length + 1
  | .bufLen => 1
  | .reset => 1
  | .illegalRequest _ args => args.length + 1

/-- The encoding of the instruction has exactly the bytes its layout gives it, whatever the parameters. -/
def Statement (i : Instr) : Prop := ∀ cfg : Config, (encode cfg i).length = byteCount i

theorem length_encodeKind (k : Kind) (a b : Byte) (data : Bytes) : (encodeKind k a b data).length = data.length + 11 := by
  simp [encodeKind, sentenceLength]
  omega

theorem length_encodeFrameWith (cfg : Config) (g u : Byte) (payload : Bytes) (ck : Byte × Byte) :
    (encodeFrameWith cfg g u payload ck).length = payload.length + 8 := by
  simp [encodeFrameWith, frameContents, lengthBytes]

theorem nmeaRmc (a b : Byte) (data : Bytes) : Statement (.nmeaRmc a b data) := fun _ => length_encodeKind _ a b data

theorem nmeaGga (a b : Byte) (data : Bytes) : Statement (.nmeaGga a b data) := fun _ => length_encodeKind _ a b data

theorem nmeaGll (a b : Byte) (data : Bytes) : Statement (.nmeaGll a b data) := fun _ => length_encodeKind _ a b data

theorem nmeaGsa (a b : Byte) (data : Bytes) : Statement (.nmeaGsa a b data) := fun _ => length_encodeKind _ a b data

theorem nmeaGsv (a b : Byte) (data : Bytes) : Statement (.nmeaGsv a b data) := fun _ => length_encodeKind _ a b data

theorem nmeaVtg (a b : Byte) (data : Bytes) : Statement (.nmeaVtg a b data) := fun _ => length_encodeKind _ a b data

theorem nmeaGst (a b : Byte) (data : Bytes) : Statement (.nmeaGst a b data) := fun _ => length_encodeKind _ a b data

theorem nmeaGrs (a b : Byte) (data : Bytes) : Statement (.nmeaGrs a b data) := fun _ => length_encodeKind _ a b data

theorem nmeaZda (a b : Byte) (data : Bytes) : Statement (.nmeaZda a b data) := fun _ => length_encodeKind _ a b data

theorem nmeaUnknown (body : Bytes) : Statement (.nmeaUnknown body) := fun _ => length_encodeSentence body

theorem binAck (payload : Bytes) : Statement (.binAck payload) := fun _ => length_encodeFrameWith _ _ _ payload _

theorem binNak (payload : Bytes) : Statement (.binNak payload) := fun _ => length_encodeFrameWith _ _ _ payload _

theorem binRateResp (payload : Bytes) : Statement (.binRateResp payload) :=
  fun _ => length_encodeFrameWith _ _ _ payload _

theorem binUnhandled (g u : Byte) (payload : Bytes) : Statement (.binUnhandled g u payload) :=
  fun _ => length_encodeFrameWith _ g u payload _

theorem binBadChecksum (g u : Byte) (payload : Bytes) (a b : Byte) : Statement (.binBadChecksum g u payload a b) :=
  fun _ => length_encodeFrameWith _ g u payload _

theorem noise (b : Byte) : Statement (.noise b) := fun _ => rfl

theorem setRate (tg ts rate : Byte) : Statement (.setRate tg ts rate) :=
  fun _ => length_encodeFrameWith _ _ _ [tg, ts, rate] _

theorem queryRate (tg ts : Byte) : Statement (.queryRate tg ts) := fun _ => length_encodeFrameWith _ _ _ [tg, ts] _

theorem feed (chunk : Bytes) : Statement (.feed chunk) := fun _ => rfl

theorem latest (code : Byte) : Statement (.latest code) := fun _ => rfl

theorem getRate (g u : Byte) : Statement (.getRate g u) := fun _ => rfl

theorem buildSetRate (tg ts rate : Byte) : Statement (.buildSetRate tg ts rate) := fun _ => rfl

theorem buildQueryRate (tg ts : Byte) : Statement (.buildQueryRate tg ts) := fun _ => rfl

theorem parseFrame (bytes : Bytes) : Statement (.parseFrame bytes) := fun _ => rfl

theorem classify (text : Bytes) : Statement (.classify text) := fun _ => rfl

theorem validateNmea (text : Bytes) : Statement (.validateNmea text) := fun _ => rfl

theorem parseNmea (text : Bytes) : Statement (.parseNmea text) := fun _ => rfl

theorem xorSum (bytes : Bytes) : Statement (.xorSum bytes) := fun _ => rfl

theorem runSum (bytes : Bytes) : Statement (.runSum bytes) := fun _ => rfl

theorem bufLen : Statement .bufLen := fun _ => rfl

theorem reset : Statement .reset := fun _ => rfl

theorem illegalRequest (op : Byte) (args : Bytes) : Statement (.illegalRequest op args) := fun _ => rfl

end Sys2Proof.Laws.EncodedLength
end

