-- ==== Sys2Proof/Laws/Step.lean ====
section
/-!
SUPPORT. One step of the machine: every case, said once.
-/

namespace Sys2Proof.Machine

/-! ## Host transactions and the sink -/

/-- Everything a host's instruction can do (45 R217 to R229, 70 R271, 60 R258). -/
inductive HostCase (i : Instr) (s t : State) : Prop where
  /-- Held: nothing happens (45 R218, R229; 70 R271). -/
  | held (busy : s.busy = true) (waits : waitsForIdle i = true) (eq : t = s)
  /-- A response is returned; the block's own state stays. -/
  | reply (r : Response) (eq : t = pushResponse r (takeTurn s))
  /-- A frame goes to the sink. -/
  | sent (frame : Bytes) (eq : t = transmit frame s)
  /-- A FEED is accepted. -/
  | started (chunk : Bytes) (instr : i = .feed chunk) (busy : s.busy = false) (eq : t = startFeed chunk (takeTurn s))
  /-- The start-up state is put in place. -/
  | wiped (instr : i = .reset) (busy : s.busy = false) (eq : t = respond .empty (resetBlock s))

theorem respondBuilt_reply (r : Except ErrorRecord Bytes) (s : State) :
    ∃ p, respondBuilt r s = pushResponse p (takeTurn s) := by
  cases r with
  | ok f => exact ⟨_, rfl⟩
  | error e => exact ⟨_, rfl⟩

/-- All that the outbound rows can do: their frame goes out, or the builder has refused the target. -/
theorem exec_outbound (i : Instr) (s : State) (h : i.channel = .outbound) :
    (i.wellFormed s.cfg = true ∧ ∃ f, exec i s = .next (transmit f s))
    ∨ (i.wellFormed s.cfg = false ∧ exec i s = .refused .notBuilderOutput) := by
  cases i with
  | setRate tg ts rate =>
    cases hv : targetValid s.cfg tg ts with
    | true => exact .inl ⟨hv, _, by simp only [exec, execSetRate, buildSetRate, hv, if_true]; rfl⟩
    | false => exact .inr ⟨hv, by simp [exec, execSetRate, buildSetRate, hv, transmitBuilt]⟩
  | queryRate tg ts =>
    cases hv : targetValid s.cfg tg ts with
    | true => exact .inl ⟨hv, _, by simp only [exec, execQueryRate, buildQueryRate, hv, if_true]; rfl⟩
    | false => exact .inr ⟨hv, by simp [exec, execQueryRate, buildQueryRate, hv, transmitBuilt]⟩
  | _ => simp [Instr.channel] at h

/-- A host's instruction has a next state, one of these cases, but for an outbound row whose target the builder refuses. -/
theorem exec_host (i : Instr) (s : State) (h : i.channel ≠ .inbound) :
    (∃ t, exec i s = .next t ∧ HostCase i s t)
    ∨ (i.channel = .outbound ∧ i.wellFormed s.cfg = false ∧ exec i s = .refused .notBuilderOutput) := by
  by_cases ho : i.channel = .outbound
  · rcases exec_outbound i s ho with ⟨_, f, hf⟩ | ⟨hw, hr⟩
    · exact .inl ⟨_, hf, .sent f rfl⟩
    · exact .inr ⟨ho, hw, hr⟩
  left
  have reply : ∀ r : Response, ∃ t, Host.Outcome.next (φ := Fault) (ρ := Refusal) (pushResponse r (takeTurn s)) = .next t
      ∧ HostCase i s t := fun r => ⟨_, rfl, .reply r rfl⟩
  cases i with
  | nmeaRmc | nmeaGga | nmeaGll | nmeaGsa | nmeaGsv | nmeaVtg | nmeaGst | nmeaGrs | nmeaZda | nmeaUnknown | binAck
    | binNak | binRateResp | binUnhandled | binBadChecksum | noise => exact absurd rfl h
  | setRate | queryRate => exact absurd rfl ho
  | feed chunk =>
    simp only [exec, execFeed]
    cases hb : s.busy with
    | true => exact ⟨s, rfl, .held hb rfl rfl⟩
    | false => exact ⟨_, rfl, .started chunk rfl hb rfl⟩
  | latest code =>
    simp only [exec, execLatest]
    cases kindOfCode code with
    | none => exact reply _
    | some k => exact reply _
  | getRate g u => exact reply _
  | buildSetRate tg ts rate =>
    obtain ⟨p, hp⟩ := respondBuilt_reply (buildSetRate s.cfg tg ts rate) s
    exact ⟨_, rfl, .reply p hp⟩
  | buildQueryRate tg ts =>
    obtain ⟨p, hp⟩ := respondBuilt_reply (buildQueryRate s.cfg tg ts) s
    exact ⟨_, rfl, .reply p hp⟩
  | parseFrame b => exact reply _
  | classify b => exact reply _
  | validateNmea b => exact reply _
  | parseNmea b =>
    simp only [exec, execParseNmea]
    cases parseNmea s.cfg b with
    | ok r => exact reply _
    | error e => exact reply _
  | xorSum b => exact reply _
  | runSum b => exact reply _
  | bufLen =>
    simp only [exec, execBufLen]
    cases hb : s.busy with
    | true => exact ⟨s, rfl, .held hb rfl rfl⟩
    | false => exact reply _
  | reset =>
    simp only [exec, execReset]
    cases hb : s.busy with
    | true => exact ⟨s, rfl, .held hb rfl rfl⟩
    | false => exact ⟨_, rfl, .wiped rfl hb rfl⟩
  | illegalRequest op args => exact reply _

theorem oneByte_channel {op : Byte} {f : Byte → Instr} {args : Bytes} {i : Instr} (hf : ∀ a, (f a).channel = .host)
    (h : oneByte op f args = .ok i) : i.channel = .host := by
  simp only [oneByte] at h
  split at h
  · obtain rfl := Except.ok.inj h
    exact hf _
  · simp at h

theorem twoBytes_channel {op : Byte} {f : Byte → Byte → Instr} {args : Bytes} {i : Instr}
    (hf : ∀ a b, (f a b).channel = .host) (h : twoBytes op f args = .ok i) : i.channel = .host := by
  simp only [twoBytes] at h
  split at h
  · obtain rfl := Except.ok.inj h
    exact hf _ _
  · simp at h

theorem threeBytes_channel {op : Byte} {f : Byte → Byte → Byte → Instr} {args : Bytes} {i : Instr}
    (hf : ∀ a b c, (f a b c).channel = .host) (h : threeBytes op f args = .ok i) : i.channel = .host := by
  simp only [threeBytes] at h
  split at h
  · obtain rfl := Except.ok.inj h
    exact hf _ _ _
  · simp at h

theorem noBytes_channel {op : Byte} {j : Instr} {args : Bytes} {i : Instr} (hj : j.channel = .host)
    (h : noBytes op j args = .ok i) : i.channel = .host := by
  simp only [noBytes] at h
  split at h
  · obtain rfl := Except.ok.inj h
    exact hj
  · simp at h

/-- A request never decodes to an inbound element. -/
theorem decodeRequest_channel {req : Bytes} {i : Instr} (h : decodeRequest req = .ok i) : i.channel = .host := by
  cases req with
  | nil => simp [decodeRequest] at h
  | cons op args =>
    simp only [decodeRequest] at h
    split at h
    all_goals first
      | (obtain rfl := Except.ok.inj h; rfl)
      | exact oneByte_channel (fun _ => rfl) h
      | exact twoBytes_channel (fun _ _ => rfl) h
      | exact threeBytes_channel (fun _ _ _ => rfl) h
      | exact noBytes_channel rfl h

/-- What the sink's decoder accepts is an outbound row with a target that the builder accepts. -/
theorem decodeOutbound_ok {cfg : Config} {f : Bytes} {i : Instr} (h : decodeOutbound cfg f = .ok i) :
    i.channel = .outbound ∧ i.wellFormed cfg = true := by
  simp only [decodeOutbound] at h
  repeat' split at h
  all_goals first
    | (rename_i hc
       obtain rfl := Except.ok.inj h
       exact ⟨rfl, by simp only [Instr.wellFormed, hc]⟩)
    | simp at h

/-! ## The framer and the step -/

/-- BOUND: the remainder is kept or discarded whole; the FEED is over and answered (44 R189). -/
theorem boundStep_cases (s : State) :
    (s.buf.length ≤ bufMax ∧ boundStep s
      = { s with busy := false, framer := .idle, responses := s.responses ++ [⟨none, .empty⟩] })
    ∨ (bufMax < s.buf.length ∧ boundStep s
      = { s with buf := [], diag := s.diag ++ [.bufferOverflow s.buf.length], busy := false, framer := .idle,
                 responses := s.responses ++ [⟨none, .empty⟩] }) := by
  by_cases h : bufMax < s.buf.length
  · exact .inr ⟨h, by simp only [boundStep, checkBound, if_pos h]; rfl⟩
  · exact .inl ⟨by omega, by simp only [boundStep, checkBound, if_neg h]; rfl⟩

/-- The framer's step, phase by phase (44 R180). -/
theorem framerStep_cases (s : State) :
    (s.framer = .idle ∧ framerStep s = .next s)
    ∨ (∃ c, s.framer = .append c ∧ framerStep s = .next (appendStep c s))
    ∨ (∃ pos t, s.framer = .scan pos ∧ framerStep s = .next t ∧ ScanCase s pos t)
    ∨ (∃ pos, s.framer = .compact pos ∧ framerStep s = .next (compactStep pos s))
    ∨ (s.framer = .bound ∧ framerStep s = .next (boundStep s)) := by
  cases h : s.framer with
  | idle => exact .inl ⟨rfl, by simp [framerStep, framerMove, h]⟩
  | append c => exact .inr (.inl ⟨c, rfl, by simp [framerStep, framerMove, h]⟩)
  | scan pos =>
    obtain ⟨t, ht, hc⟩ := framerStep_scan h
    exact .inr (.inr (.inl ⟨pos, t, rfl, ht, hc⟩))
  | compact pos => exact .inr (.inr (.inr (.inl ⟨pos, rfl, by simp [framerStep, framerMove, h]⟩)))
  | bound => exact .inr (.inr (.inr (.inr ⟨rfl, by simp [framerStep, framerMove, h]⟩)))

/-- The framer's turn changes nothing but the turns. -/
theorem takeFramerTurn_eq (s : State) :
    takeFramerTurn s = s ∨ (∃ rest, s.turns = .framer :: rest) ∧ takeFramerTurn s = takeTurn s := by
  simp only [takeFramerTurn]
  split
  · rename_i rest h
    exact .inr ⟨⟨rest, h⟩, rfl⟩
  · exact .inl rfl

/-- A host's move is an instruction that is not inbound, and that is well formed where it is outbound. -/
theorem nextMove_host {s : State} {i : Instr} (h : nextMove s = .host i) :
    i.channel ≠ .inbound ∧ (i.channel = .outbound → i.wellFormed s.cfg = true) := by
  simp only [nextMove] at h
  repeat' split at h
  all_goals first
    | (obtain rfl := Move.host.inj h
       rename_i hd _ _
       have hc := decodeRequest_channel hd
       exact ⟨by rw [hc]; decide, fun ho => absurd (hc.symm.trans ho) (by decide)⟩)
    | (obtain rfl := Move.host.inj h
       rename_i hd
       obtain ⟨hc, hw⟩ := decodeOutbound_ok hd
       exact ⟨by rw [hc]; decide, fun _ => hw⟩)
    | simp at h

/-- A host's move always has a next state. -/
theorem exec_of_nextMove {s : State} {i : Instr} (h : nextMove s = .host i) : ∃ t, exec i s = .next t ∧ HostCase i s t := by
  obtain ⟨hc, hw⟩ := nextMove_host h
  rcases exec_host i s hc with ht | ⟨ho, hf, -⟩
  · exact ht
  · exact absurd (hw ho) (by rw [hf]; decide)

/-- Everything one step can do when it has a next state. -/
theorem step_cases {s t : State} (h : step s = .next t) :
    (nextMove s = .framer ∧ framerStep (takeFramerTurn s) = .next t)
    ∨ ∃ i, nextMove s = .host i ∧ exec i s = .next t ∧ i.channel ≠ .inbound ∧ HostCase i s t := by
  simp only [step] at h
  cases hm : nextMove s with
  | framer => left; simp only [hm] at h; exact ⟨rfl, h⟩
  | host i =>
    right
    simp only [hm] at h
    obtain ⟨t', ht', hcase⟩ := exec_of_nextMove hm
    rw [ht'] at h
    obtain rfl := Host.Outcome.next.inj h
    exact ⟨i, rfl, ht', (nextMove_host hm).1, hcase⟩
  | refuse w => simp [hm] at h

end Sys2Proof.Machine
end

