-- ==== Sys2Proof/Tests/Slice0.lean ====
section
/-!
SUPPORT. The model's own tests, on the test instance TI: the smoke test of WellFormed, one decoded word per constructor,
one step per instruction, and for each obligation with hypotheses a state and operands that meet them. Expected values are
those of spec 95 or worked out by hand from the encodings of spec 30.
-/

namespace Sys2Proof.Tests

open Sys2Proof.Machine

/-- TI. -/
def ti : Config := Config.testInstance

/-- The next state of an outcome. -/
def nextOf (o : Host.Outcome State Fault Refusal) : Option State :=
  match o with
  | .next s => some s
  | .fault _ => none
  | .refused _ => none

/-- TI in the middle of a FEED, the scan at the start of `b`. -/
def scanning (b : Bytes) : State := { State.reset with buf := b, busy := true, framer := .scan 0 }

/-- The last response after an instruction, from reset. -/
def reply (i : Instr) : Option Response := (nextOf (exec i State.reset)).bind fun s => s.responses.getLast?

/-- An answer without an error. -/
def ok (r : Result) : Option Response := some ⟨none, r⟩

/-- A field list of TI from its first fields. -/
def fields (f : List (Option Bytes)) : List (Option Bytes) := f ++ List.replicate (20 - f.length) none

/-! ## WellFormed: an ill-formed term for each check -/

theorem test_config_valid : ti.valid = true := by decide

theorem test_config_query_key_is_ack_key :
    Config.valid { ti with grpCfg := 0x05, subRateQuery := 0x01, subRateResp := 0x02 } = false := by decide

theorem test_config_query_key_is_nak_key :
    Config.valid { ti with grpCfg := 0x05, subRateQuery := 0x00, subRateResp := 0x02 } = false := by decide

theorem test_config_magic0_is_dollar : Config.meetsConstraints { ti with magic0 := 0x24 } = false := by decide

theorem test_config_ack_key_is_nak_key : Config.meetsConstraints { ti with subNak := 0x01 } = false := by decide

theorem test_config_ack_key_is_rate_key : Config.meetsConstraints { ti with grpCfg := 0x05 } = false := by decide

theorem test_config_nak_key_is_rate_key : Config.meetsConstraints { ti with grpCfg := 0x05, subRateResp := 0x00 } = false := by decide

theorem test_config_rmc_positions : Config.meetsConstraints { ti with fieldLimits := { FieldLimits.testInstance with rmc := List.replicate 8 16 } } = false := by decide

theorem test_config_gga_positions : Config.meetsConstraints { ti with fieldLimits := { FieldLimits.testInstance with gga := List.replicate 10 16 } } = false := by decide

theorem test_config_zero_maximum : Config.meetsConstraints { ti with fieldLimits := { FieldLimits.testInstance with zda := [0] } } = false := by decide

theorem test_wf_crlf_in_kind_data : Instr.wellFormed ti (.nmeaRmc 0x47 0x50 [0x0D, 0x0A]) = false := by decide

theorem test_wf_crlf_in_unknown : Instr.wellFormed ti (.nmeaUnknown [0x0D, 0x0A]) = false := by decide

theorem test_wf_unknown_with_known_tag : Instr.wellFormed ti (.nmeaUnknown [0x47, 0x50, 0x52, 0x4D, 0x43]) = false := by decide

theorem test_wf_ack_too_short : Instr.wellFormed ti (.binAck [0x06]) = false := by decide

theorem test_wf_nak_too_short : Instr.wellFormed ti (.binNak [0x06]) = false := by decide

theorem test_wf_rate_too_short : Instr.wellFormed ti (.binRateResp [0xF0, 0x04]) = false := by decide

theorem test_wf_unhandled_is_ack : Instr.wellFormed ti (.binUnhandled 0x05 0x01 [0x06, 0x01]) = false := by decide

theorem test_wf_unhandled_is_nak : Instr.wellFormed ti (.binUnhandled 0x05 0x00 [0x06, 0x01]) = false := by decide

theorem test_wf_unhandled_is_rate : Instr.wellFormed ti (.binUnhandled 0x06 0x01 [0xF0, 0x04, 0x01]) = false := by decide

theorem test_wf_bad_checksum_is_good : Instr.wellFormed ti (.binBadChecksum 0x0A 0x04 [] 0x0E 0x34) = false := by decide

theorem test_wf_noise_is_dollar : Instr.wellFormed ti (.noise 0x24) = false := by decide

/-- TI with one target refused. -/
def picky : Config := { ti with invalidTargets := [(0xF0, 0x04)] }

theorem test_wf_set_rate_refused_target : Instr.wellFormed picky (.setRate 0xF0 0x04 0x01) = false := by decide

theorem test_wf_query_rate_refused_target : Instr.wellFormed picky (.queryRate 0xF0 0x04) = false := by decide

theorem test_wf_illegal_op_is_feed : Instr.wellFormed ti (.illegalRequest 0x01 []) = false := by decide

theorem test_wf_illegal_op_is_reset : Instr.wellFormed ti (.illegalRequest 0x0D []) = false := by decide

theorem test_wf_payload_too_long : Instr.wellFormed ti (.binAck (List.replicate 65536 0)) = false := by
  simp only [Instr.wellFormed, payloadFits, List.length_replicate]
  decide

/-! ## Decoding: one word of each row, written out from its encoding -/

/-- "$GPRMC*4B", CR LF. -/
theorem test_decode_nmea_rmc :
    decodeElement ti [0x24, 0x47, 0x50, 0x52, 0x4D, 0x43, 0x2A, 0x34, 0x42, 0x0D, 0x0A]
      = .ok (.nmeaRmc 0x47 0x50 []) := by decide

/-- "$GPGGA*56", CR LF. -/
theorem test_decode_nmea_gga :
    decodeElement ti [0x24, 0x47, 0x50, 0x47, 0x47, 0x41, 0x2A, 0x35, 0x36, 0x0D, 0x0A]
      = .ok (.nmeaGga 0x47 0x50 []) := by decide

/-- "$GPGLL*50", CR LF. -/
theorem test_decode_nmea_gll :
    decodeElement ti [0x24, 0x47, 0x50, 0x47, 0x4C, 0x4C, 0x2A, 0x35, 0x30, 0x0D, 0x0A]
      = .ok (.nmeaGll 0x47 0x50 []) := by decide

/-- "$GPGSA*42", CR LF. -/
theorem test_decode_nmea_gsa :
    decodeElement ti [0x24, 0x47, 0x50, 0x47, 0x53, 0x41, 0x2A, 0x34, 0x32, 0x0D, 0x0A]
      = .ok (.nmeaGsa 0x47 0x50 []) := by decide

/-- "$GPGSV*55", CR LF. -/
theorem test_decode_nmea_gsv :
    decodeElement ti [0x24, 0x47, 0x50, 0x47, 0x53, 0x56, 0x2A, 0x35, 0x35, 0x0D, 0x0A]
      = .ok (.nmeaGsv 0x47 0x50 []) := by decide

/-- "$GPVTG*52", CR LF. -/
theorem test_decode_nmea_vtg :
    decodeElement ti [0x24, 0x47, 0x50, 0x56, 0x54, 0x47, 0x2A, 0x35, 0x32, 0x0D, 0x0A]
      = .ok (.nmeaVtg 0x47 0x50 []) := by decide

/-- "$GPGST*57", CR LF. -/
theorem test_decode_nmea_gst :
    decodeElement ti [0x24, 0x47, 0x50, 0x47, 0x53, 0x54, 0x2A, 0x35, 0x37, 0x0D, 0x0A]
      = .ok (.nmeaGst 0x47 0x50 []) := by decide

/-- "$GPGRS*51", CR LF. -/
theorem test_decode_nmea_grs :
    decodeElement ti [0x24, 0x47, 0x50, 0x47, 0x52, 0x53, 0x2A, 0x35, 0x31, 0x0D, 0x0A]
      = .ok (.nmeaGrs 0x47 0x50 []) := by decide

/-- "$GPZDA*48", CR LF. -/
theorem test_decode_nmea_zda :
    decodeElement ti [0x24, 0x47, 0x50, 0x5A, 0x44, 0x41, 0x2A, 0x34, 0x38, 0x0D, 0x0A]
      = .ok (.nmeaZda 0x47 0x50 []) := by decide

/-- "$GPRMC,,A*0A", CR LF (95 L2.2): the commas and fields are data. -/
theorem test_decode_nmea_rmc_fields :
    decodeElement ti [0x24, 0x47, 0x50, 0x52, 0x4D, 0x43, 0x2C, 0x2C, 0x41, 0x2A, 0x30, 0x41, 0x0D, 0x0A]
      = .ok (.nmeaRmc 0x47 0x50 [0x2C, 0x2C, 0x41]) := by decide

/-- "$*00", CR LF (95 L2.1). -/
theorem test_decode_nmea_unknown :
    decodeElement ti [0x24, 0x2A, 0x30, 0x30, 0x0D, 0x0A] = .ok (.nmeaUnknown []) := by decide

/-- ACK. -/
theorem test_decode_bin_ack :
    decodeElement ti [0xB5, 0x62, 0x05, 0x01, 0x02, 0x00, 0x06, 0x01, 0x0F, 0x38] = .ok (.binAck [0x06, 0x01]) := by decide

/-- 95 L2.3. -/
theorem test_decode_bin_nak :
    decodeElement ti [0xB5, 0x62, 0x05, 0x00, 0x02, 0x00, 0x06, 0x01, 0x0E, 0x33] = .ok (.binNak [0x06, 0x01]) := by decide

/-- RR1. -/
theorem test_decode_bin_rate_resp :
    decodeElement ti [0xB5, 0x62, 0x06, 0x01, 0x03, 0x00, 0xF0, 0x04, 0x01, 0xFF, 0x18] = .ok (.binRateResp [0xF0, 0x04, 0x01]) := by decide

/-- 95 L2.3. -/
theorem test_decode_bin_unhandled :
    decodeElement ti [0xB5, 0x62, 0x0A, 0x04, 0x00, 0x00, 0x0E, 0x34] = .ok (.binUnhandled 0x0A 0x04 []) := by decide

/-- 95 L2.3, ACK with N = 1. -/
theorem test_decode_bin_unhandled_short_ack :
    decodeElement ti [0xB5, 0x62, 0x05, 0x01, 0x01, 0x00, 0x06, 0x0D, 0x26] = .ok (.binUnhandled 0x05 0x01 [0x06]) := by decide

/-- BADACK. -/
theorem test_decode_bin_bad_checksum :
    decodeElement ti [0xB5, 0x62, 0x05, 0x01, 0x02, 0x00, 0x06, 0x01, 0x0F, 0x39] = .ok (.binBadChecksum 0x05 0x01 [0x06, 0x01] 0x0F 0x39) := by decide

/-- a byte that starts nothing. -/
theorem test_decode_noise :
    decodeElement ti [0x41] = .ok (.noise 0x41) := by decide

/-- `B5 00` (95 L2.5). -/
theorem test_decode_noise_magic0 :
    decodeElement ti [0xB5, 0x00] = .ok (.noise 0xB5) := by decide

theorem test_decode_set_rate :
    decodeOutbound ti [0xB5, 0x62, 0x06, 0x01, 0x03, 0x00, 0xF0, 0x04, 0x05, 0x03, 0x1C] = .ok (.setRate 0xF0 0x04 0x05) := by decide

theorem test_decode_query_rate :
    decodeOutbound ti [0xB5, 0x62, 0x06, 0x01, 0x02, 0x00, 0xF0, 0x04, 0xFD, 0x15] = .ok (.queryRate 0xF0 0x04) := by decide

theorem test_decode_feed : decodeRequest [0x01, 0x24] = .ok (.feed [0x24]) := by decide

theorem test_decode_latest : decodeRequest [0x02, 0x09] = .ok (.latest 9) := by decide

theorem test_decode_get_rate : decodeRequest [0x03, 0xF0, 0x04] = .ok (.getRate 0xF0 0x04) := by decide

theorem test_decode_build_set_rate : decodeRequest [0x04, 0xF0, 0x04, 0x01] = .ok (.buildSetRate 0xF0 0x04 0x01) := by decide

theorem test_decode_build_query_rate : decodeRequest [0x05, 0xF0, 0x04] = .ok (.buildQueryRate 0xF0 0x04) := by decide

theorem test_decode_parse_frame : decodeRequest [0x06, 0xB5] = .ok (.parseFrame [0xB5]) := by decide

theorem test_decode_classify : decodeRequest [0x07] = .ok (.classify []) := by decide

theorem test_decode_validate_nmea : decodeRequest [0x08, 0x24] = .ok (.validateNmea [0x24]) := by decide

theorem test_decode_parse_nmea : decodeRequest [0x09, 0x24] = .ok (.parseNmea [0x24]) := by decide

theorem test_decode_xor_sum : decodeRequest [0x0A, 0x20] = .ok (.xorSum [0x20]) := by decide

theorem test_decode_run_sum : decodeRequest [0x0B, 0xFF] = .ok (.runSum [0xFF]) := by decide

theorem test_decode_buf_len : decodeRequest [0x0C] = .ok (.bufLen) := by decide

theorem test_decode_reset : decodeRequest [0x0D] = .ok (.reset) := by decide

theorem test_decode_illegal_request : decodeRequest [0x0E, 0x07] = .ok (.illegalRequest 0x0E [0x07]) := by decide

theorem test_decode_illegal_request_zero : decodeRequest [0x00] = .ok (.illegalRequest 0x00 []) := by decide

theorem test_rejects_no_op : decodeRequest [] = .error (RequestError.noOp) := by decide

theorem test_rejects_wrong_arguments : decodeRequest [0x03, 0xF0] = .error (RequestError.wrongArguments 0x03) := by decide

theorem test_rejects_exhausted : decodeElement ti [] = .error (ElementError.exhausted) := by decide

theorem test_rejects_unterminated : decodeElement ti [0x24, 0x0D] = .error (ElementError.unterminatedSentence) := by decide

theorem test_rejects_lone_magic : decodeElement ti [0xB5] = .error (ElementError.loneMagic0) := by decide

theorem test_rejects_incomplete : decodeElement ti [0xB5, 0x62, 0x06, 0x01, 0x03] = .error (ElementError.incompleteFrame) := by decide

theorem test_rejects_bad_sentence : decodeElement ti [0x24, 0x41, 0x2A, 0x34, 0x32, 0x0D, 0x0A] = .error (ElementError.badSentence 7) := by decide

theorem test_rejects_not_builder_output : decodeOutbound ti [0xB5, 0x62] = .error (OutboundError.notBuilderOutput) := by decide

/-- The 19 table words of at most 32 bits, two of them equal, and the wider ones (log entry 10). -/
theorem test_table_words :
    [(8, 0x24), (32, 0xB5620501), (32, 0xB5620500), (32, 0xB5620601), (16, 0xB562), (48, 0x240000565447),
      (48, 0xB56206010300), (48, 0xB56206010200), (8, 0x02), (8, 0x0D)].map (fun p => decodeTableWord p.1 p.2)
      = [some (.nmeaUnknown []), some (.binAck [0, 0]), some (.binNak [0, 0]), some (.binRateResp [0, 0, 0]),
        some (.binUnhandled 0 0 []), some (.nmeaVtg 0 0 []), some (.setRate 0 0 0), some (.queryRate 0 0),
        some (.latest 0), some .reset] := by decide

/-! ## One step per instruction -/

/-- `GPRMC,,A`: slot RMC replaced, one event, the cursor past the span. -/
theorem test_nmea_rmc_step :
    (nextOf (step (scanning [0x24, 0x47, 0x50, 0x52, 0x4D, 0x43, 0x2C, 0x2C, 0x41, 0x2A, 0x30, 0x41, 0x0D, 0x0A]))).map (fun s => (s.snap.rmc, s.out.length, s.diag, s.framer))
      = some (some ⟨.rmc, (0x47, 0x50), fields [none, some [0x41]]⟩, 1, [], .scan 14) := by decide

/-- `GPGGA,,A`: slot GGA replaced, one event, the cursor past the span. -/
theorem test_nmea_gga_step :
    (nextOf (step (scanning [0x24, 0x47, 0x50, 0x47, 0x47, 0x41, 0x2C, 0x2C, 0x41, 0x2A, 0x31, 0x37, 0x0D, 0x0A]))).map (fun s => (s.snap.gga, s.out.length, s.diag, s.framer))
      = some (some ⟨.gga, (0x47, 0x50), fields [none, some [0x41]]⟩, 1, [], .scan 14) := by decide

/-- `GPGLL,,A`: slot GLL replaced, one event, the cursor past the span. -/
theorem test_nmea_gll_step :
    (nextOf (step (scanning [0x24, 0x47, 0x50, 0x47, 0x4C, 0x4C, 0x2C, 0x2C, 0x41, 0x2A, 0x31, 0x31, 0x0D, 0x0A]))).map (fun s => (s.snap.gll, s.out.length, s.diag, s.framer))
      = some (some ⟨.gll, (0x47, 0x50), fields [none, some [0x41]]⟩, 1, [], .scan 14) := by decide

/-- `GPGSA,,A`: slot GSA replaced, one event, the cursor past the span. -/
theorem test_nmea_gsa_step :
    (nextOf (step (scanning [0x24, 0x47, 0x50, 0x47, 0x53, 0x41, 0x2C, 0x2C, 0x41, 0x2A, 0x30, 0x33, 0x0D, 0x0A]))).map (fun s => (s.snap.gsa, s.out.length, s.diag, s.framer))
      = some (some ⟨.gsa, (0x47, 0x50), fields [none, some [0x41]]⟩, 1, [], .scan 14) := by decide

/-- `GPGSV,,A`: slot GSV replaced, one event, the cursor past the span. -/
theorem test_nmea_gsv_step :
    (nextOf (step (scanning [0x24, 0x47, 0x50, 0x47, 0x53, 0x56, 0x2C, 0x2C, 0x41, 0x2A, 0x31, 0x34, 0x0D, 0x0A]))).map (fun s => (s.snap.gsv, s.out.length, s.diag, s.framer))
      = some (some ⟨.gsv, (0x47, 0x50), fields [none, some [0x41]]⟩, 1, [], .scan 14) := by decide

/-- `GPVTG,,A`: slot VTG replaced, one event, the cursor past the span. -/
theorem test_nmea_vtg_step :
    (nextOf (step (scanning [0x24, 0x47, 0x50, 0x56, 0x54, 0x47, 0x2C, 0x2C, 0x41, 0x2A, 0x31, 0x33, 0x0D, 0x0A]))).map (fun s => (s.snap.vtg, s.out.length, s.diag, s.framer))
      = some (some ⟨.vtg, (0x47, 0x50), fields [none, some [0x41]]⟩, 1, [], .scan 14) := by decide

/-- `GPGST,,A`: one event, no slot. -/
theorem test_nmea_gst_step :
    (nextOf (step (scanning [0x24, 0x47, 0x50, 0x47, 0x53, 0x54, 0x2C, 0x2C, 0x41, 0x2A, 0x31, 0x36, 0x0D, 0x0A]))).map (fun s => (s.snap, s.out, s.diag, s.framer))
      = some (Snapshots.reset, [.nmea ⟨.gst, (0x47, 0x50), fields [none, some [0x41]]⟩], [], .scan 14) := by decide

/-- `GPGRS,,A`: one event, no slot. -/
theorem test_nmea_grs_step :
    (nextOf (step (scanning [0x24, 0x47, 0x50, 0x47, 0x52, 0x53, 0x2C, 0x2C, 0x41, 0x2A, 0x31, 0x30, 0x0D, 0x0A]))).map (fun s => (s.snap, s.out, s.diag, s.framer))
      = some (Snapshots.reset, [.nmea ⟨.grs, (0x47, 0x50), fields [none, some [0x41]]⟩], [], .scan 14) := by decide

/-- `GPZDA,,A`: one event, no slot. -/
theorem test_nmea_zda_step :
    (nextOf (step (scanning [0x24, 0x47, 0x50, 0x5A, 0x44, 0x41, 0x2C, 0x2C, 0x41, 0x2A, 0x30, 0x39, 0x0D, 0x0A]))).map (fun s => (s.snap, s.out, s.diag, s.framer))
      = some (Snapshots.reset, [.nmea ⟨.zda, (0x47, 0x50), fields [none, some [0x41]]⟩], [], .scan 14) := by decide

/-- OVF26 (95): field 1 has 17 bytes. -/
theorem test_nmea_rmc_overflow :
    (nextOf (step (scanning [0x24, 0x47, 0x50, 0x52, 0x4D, 0x43, 0x2C, 0x30, 0x35, 0x35, 0x35, 0x32, 0x35, 0x2E, 0x30, 0x30, 0x30, 0x30, 0x30, 0x30, 0x30, 0x30, 0x30, 0x30, 0x2C, 0x41, 0x2A, 0x32, 0x36, 0x0D, 0x0A]))).map (fun s => (s.snap, s.out, s.diag, s.framer))
      = some (Snapshots.reset, [], [.fieldOverflow .rmc 1], .scan 31) := by decide

/-- `GPTXT` (95 L2.2, P3). -/
theorem test_nmea_unknown_step :
    (nextOf (step (scanning [0x24, 0x47, 0x50, 0x54, 0x58, 0x54, 0x2A, 0x34, 0x46, 0x0D, 0x0A]))).map (fun s => (s.snap, s.out, s.diag, s.framer))
      = some (Snapshots.reset, [], [.unrecognizedKind [0x54, 0x58, 0x54]], .scan 11) := by decide

/-- `$` before `$A*41` (95 L2.1: the second `$` enters the XOR). -/
theorem test_bad_sentence_step :
    (nextOf (step (scanning [0x24, 0x24, 0x41, 0x2A, 0x34, 0x31, 0x0D, 0x0A]))).map (fun s => (s.out, s.diag, s.framer))
      = some ([], [.checksumMismatch .nmea 8], .scan 8) := by decide

/-- ACK (42 R156). -/
theorem test_bin_ack_step :
    (nextOf (step (scanning [0xB5, 0x62, 0x05, 0x01, 0x02, 0x00, 0x06, 0x01, 0x0F, 0x38]))).map (fun s => (s.out, s.diag, s.framer))
      = some ([.ack 0x06 0x01], [], .scan 10) := by decide

/-- NAK (95 L2.3). -/
theorem test_bin_nak_step :
    (nextOf (step (scanning [0xB5, 0x62, 0x05, 0x00, 0x02, 0x00, 0x06, 0x01, 0x0E, 0x33]))).map (fun s => (s.out, s.diag, s.framer))
      = some ([.nak 0x06 0x01], [], .scan 10) := by decide

/-- RR1 (42 R157). -/
theorem test_bin_rate_resp_step :
    (nextOf (step (scanning [0xB5, 0x62, 0x06, 0x01, 0x03, 0x00, 0xF0, 0x04, 0x01, 0xFF, 0x18]))).map (fun s => (s.out, rateOf 0xF0 0x04 s, rateOf 0x04 0xF0 s, s.framer))
      = some ([.rate 0xF0 0x04 0x01], some 0x01, none, .scan 11) := by decide

/-- A payload of `$`, CR, LF (95 L2.3). -/
theorem test_bin_unhandled_step :
    (nextOf (step (scanning [0xB5, 0x62, 0x0A, 0x04, 0x03, 0x00, 0x24, 0x0D, 0x0A, 0x4C, 0xFD]))).map (fun s => (s.out, s.diag, s.framer))
      = some ([.unhandled 0x0A 0x04 [0x24, 0x0D, 0x0A]], [], .scan 11) := by decide

/-- BADACK (95 P3). -/
theorem test_bin_bad_checksum_step :
    (nextOf (step (scanning [0xB5, 0x62, 0x05, 0x01, 0x02, 0x00, 0x06, 0x01, 0x0F, 0x39]))).map (fun s => (s.out, s.diag, s.framer))
      = some ([], [.checksumMismatch .bin 10], .scan 10) := by decide

/-- `B5 00` (95 L2.5). -/
theorem test_noise_step :
    (nextOf (step (scanning [0xB5, 0x00]))).map (fun s => (s.out, s.diag, s.framer))
      = some ([], [], .scan 1) := by decide

/-- A lone `MAGIC0` is noise where it is not retained (95 L2.5). -/
theorem test_noise_lone_magic :
    (nextOf (step { scanning [0xB5] with cfg := { ti with retainLoneMagic0 := false } })).map (fun s => s.framer)
      = some (.scan 1) := by decide

/-- Truncate keeps the first 16 bytes (95 L2.2, OVF26). -/
theorem test_parse_nmea_truncates :
    (nextOf (exec (.parseNmea [0x24, 0x47, 0x50, 0x52, 0x4D, 0x43, 0x2C, 0x30, 0x35, 0x35, 0x35, 0x32, 0x35, 0x2E, 0x30, 0x30, 0x30, 0x30, 0x30, 0x30, 0x30, 0x30, 0x30, 0x30, 0x2C, 0x41, 0x2A, 0x32, 0x36, 0x0D, 0x0A])
      { State.reset with cfg := { ti with fieldPolicy := .truncate } })).bind (fun s => s.responses.getLast?)
      = ok (.record (some ⟨.rmc, (0x47, 0x50), fields [some [0x30, 0x35, 0x35, 0x35, 0x32, 0x35, 0x2E, 0x30, 0x30, 0x30, 0x30, 0x30, 0x30, 0x30, 0x30, 0x30], some [0x41]]⟩)) := by decide

/-- SET_RATE F0 04 05 (95 L2.4): the frame goes to the sink. -/
theorem test_set_rate_step :
    (nextOf (exec (.setRate 0xF0 0x04 0x05) State.reset)).map (fun s => s.sink)
      = some [[0xB5, 0x62, 0x06, 0x01, 0x03, 0x00, 0xF0, 0x04, 0x05, 0x03, 0x1C]] := by decide

/-- QUERY_RATE 00 00 (95 L2.4). -/
theorem test_query_rate_step :
    (nextOf (exec (.queryRate 0x00 0x00) State.reset)).map (fun s => s.sink)
      = some [[0xB5, 0x62, 0x06, 0x01, 0x02, 0x00, 0x00, 0x00, 0x09, 0x31]] := by decide

/-- The query frame of a refused target is no builder output (60 R249, R258). -/
theorem test_refused_target_at_sink :
    decodeOutbound picky [0xB5, 0x62, 0x06, 0x01, 0x02, 0x00, 0xF0, 0x04, 0xFD, 0x15] = .error .notBuilderOutput := by
  decide

/-- A FEED from a second path (93 section 2). -/
theorem test_second_path :
    step { State.reset with turns := [.request .readingHost [0x01, 0x24]] } = .refused .secondFeedingPath := rfl

/-- LATEST runs while a FEED is in progress, also from the feeding host (45 R217). -/
theorem test_latest_while_busy :
    (nextOf (step { scanning [0x41] with turns := [.request .feedingHost [0x02, 0x00]] })).map
        (fun s => (s.responses, s.turns, s.framer))
      = some ([⟨none, .record none⟩], [], .scan 0) := by decide

/-- FEED starts the framer (45 R218). -/
theorem test_feed_step :
    (nextOf (exec (.feed [0x24]) State.reset)).map (fun s => (s.busy, s.framer, s.buf))
      = some (true, .append [0x24], []) := by decide

/-- FEED is held while `BUSY = 1` (45 R218). -/
theorem test_feed_held : nextOf (exec (.feed [0x24]) (scanning [0x41])) = some (scanning [0x41]) := by decide

/-- At reset (45 R219). -/
theorem test_latest_reset : reply (.latest 0) = ok (.record none) := by decide

/-- LATEST 0A (95 L2.6). -/
theorem test_latest_illegal : reply (.latest 10) = some ⟨some (.illegalRequest 0x02), .empty⟩ := by decide

/-- At reset (95 L2.6). -/
theorem test_get_rate_reset : reply (.getRate 0xF0 0x04) = ok (.rate none) := by decide

/-- After the rate response of RR1 (45 R220). -/
theorem test_get_rate :
    (nextOf (exec (.getRate 0xF0 0x04) (setRateEntry 0xF0 0x04 0x01 State.reset))).bind (fun s => s.responses.getLast?)
      = ok (.rate (some 0x01)) := by decide

/-- BUILD_SET_RATE FF FF FF (95 L2.4). -/
theorem test_build_set_rate : reply (.buildSetRate 0xFF 0xFF 0xFF) = ok (.frame [0xB5, 0x62, 0x06, 0x01, 0x03, 0x00, 0xFF, 0xFF, 0xFF, 0x07, 0x39]) := by decide

/-- A refused target (95 L2.4). -/
theorem test_build_set_rate_refused :
    (nextOf (exec (.buildSetRate 0xF0 0x04 0x01)
      { State.reset with cfg := picky })).bind (fun s => s.responses.getLast?)
      = some ⟨some (.invalidTarget 0xF0 0x04), .empty⟩ := by decide

/-- BUILD_QUERY_RATE F0 00 (95 L2.4). -/
theorem test_build_query_rate : reply (.buildQueryRate 0xF0 0x00) = ok (.frame [0xB5, 0x62, 0x06, 0x01, 0x02, 0x00, 0xF0, 0x00, 0xF9, 0x11]) := by decide

/-- N = 8; bytes from P[3] on are ignored (95 L2.3). -/
theorem test_parse_frame_rate : reply (.parseFrame [0xB5, 0x62, 0x06, 0x01, 0x08, 0x00, 0xF0, 0x00, 0x00, 0x01, 0x00, 0x00, 0x00, 0x00, 0x00, 0x28]) = ok (.parsed ⟨16, .ok, some (.rate 0xF0 0x00 0x00)⟩) := by decide

/-- `24 62` (95 L2.3). -/
theorem test_parse_frame_bad_magic : reply (.parseFrame [0x24, 0x62]) = ok (.parsed ⟨1, .badMagic, none⟩) := by decide

/-- `$PGRMC` (95 L2.2): the talker is not checked. -/
theorem test_classify : reply (.classify [0x24, 0x50, 0x47, 0x52, 0x4D, 0x43]) = ok (.kind 0) := by decide

/-- `$GPrmc` (95 L2.2). -/
theorem test_classify_lower_case : reply (.classify [0x24, 0x47, 0x50, 0x72, 0x6D, 0x63]) = ok (.kind 9) := by decide

/-- `$GPGGA,1*2*53` (95 L2.1). -/
theorem test_validate_inner_star : reply (.validateNmea [0x24, 0x47, 0x50, 0x47, 0x47, 0x41, 0x2C, 0x31, 0x2A, 0x32, 0x2A, 0x35, 0x33]) = ok (.bit true) := by decide

/-- `$GPRMC*4b` (95 L2.1). -/
theorem test_validate_lower_case : reply (.validateNmea [0x24, 0x47, 0x50, 0x52, 0x4D, 0x43, 0x2A, 0x34, 0x62]) = ok (.bit false) := by decide

/-- `$*00` (95 L2.2): the tag slice is 1 byte. -/
theorem test_parse_nmea_short_tag : reply (.parseNmea [0x24, 0x2A, 0x30, 0x30]) = some ⟨some (.unrecognizedKind [0x30]), .record none⟩ := by decide

/-- `GPRMC` (95 L2.1). -/
theorem test_xor_sum : reply (.xorSum [0x47, 0x50, 0x52, 0x4D, 0x43]) = ok (.byte 0x4B) := by decide

/-- FF FF (95 L2.1): both accumulators wrap. -/
theorem test_run_sum : reply (.runSum [0xFF, 0xFF]) = ok (.word 0xFDFE) := by decide

/-- 01 02 03 (95 L2.1). -/
theorem test_run_sum_order : reply (.runSum [0x01, 0x02, 0x03]) = ok (.word 0x0A06) := by decide

/-- BUF_LEN after `FEED B5` (95 L2.6). -/
theorem test_buf_len :
    (nextOf (exec .bufLen { State.reset with buf := [0xB5] })).bind (fun s => s.responses.getLast?)
      = ok (.natural 1) := by decide

/-- BUF_LEN is held while `BUSY = 1` (45 R229). -/
theorem test_buf_len_held : nextOf (exec .bufLen (scanning [0x41])) = some (scanning [0x41]) := by decide

/-- RESET of a block with a pending byte and a log (70 R271). -/
theorem test_reset :
    nextOf (exec .reset { State.reset with buf := [0xB5], diag := [.bufferOverflow 2049] })
      = some { State.reset with responses := [⟨none, .empty⟩] } := by decide

/-- Op 0x0E (95 L2.6). -/
theorem test_illegal_request : reply (.illegalRequest 0x0E [0x07]) = some ⟨some (.illegalRequest 0x0E), .empty⟩ := by decide

/-- A remainder of 2048 bytes is kept (44 R189, 95 P5). -/
theorem test_bound_keeps (s : State) (h : s.buf = List.replicate 2048 0x7A) : checkBound s = s := by
  rw [checkBound, h, List.length_replicate]
  rfl

/-- One of 2049 bytes is discarded and logged (44 R189, 95 P5). -/
theorem test_bound_discards (s : State) (h : s.buf = List.replicate 2049 0x7A) :
    (checkBound s).buf = [] ∧ (checkBound s).diag = s.diag ++ [.bufferOverflow 2049] := by
  rw [checkBound, h, List.length_replicate]
  exact ⟨rfl, rfl⟩

/-- What step fetches from a table word is the row's instruction: a frame of the stream, a request, a frame for the
sink. -/
theorem test_fetch_word :
    (nextOf (step (State.reset.withFetchWord 32 0xB5620601))).map (fun s => s.out) = some [.rate 0 0 0]
    ∧ (nextOf (step (State.reset.withFetchWord 8 0x0C))).bind (fun s => s.responses.getLast?) = ok (.natural 0)
    ∧ (nextOf (step (State.reset.withFetchWord 48 0xB56206010200))).map (fun s => s.sink)
      = some [[0xB5, 0x62, 0x06, 0x01, 0x02, 0x00, 0x00, 0x00, 0x09, 0x31]] := by decide

/-! ## Witnesses: a state and operands that meet the hypotheses of each obligation that has any -/

theorem witness_inbound_decode_of_encode :
    ti.meetsConstraints = true ∧ (Instr.binAck [0x06, 0x01]).channel = .inbound
    ∧ (Instr.binAck [0x06, 0x01]).wellFormed ti = true ∧ ∀ b, Instr.binAck [0x06, 0x01] = .noise b → b ≠ ti.magic0 := by
  refine ⟨by decide, rfl, by decide, fun b h => by cases h⟩

theorem witness_inbound_decode_of_encode_noise :
    (Instr.noise 0x62).wellFormed ti = true ∧ ∀ b, Instr.noise 0x62 = .noise b → b ≠ ti.magic0 := by
  refine ⟨by decide, fun b h => ?_⟩
  cases h
  decide

theorem witness_inbound_encode_of_decode : decodeElement ti [0x41] = .ok (.noise 0x41) := by decide

theorem witness_lone_magic : ti.meetsConstraints = true ∧ (0x00 : Byte) ≠ ti.magic1 := by decide

theorem witness_request_decode_of_encode :
    (Instr.illegalRequest 0x0E []).channel = .host ∧ (Instr.illegalRequest 0x0E []).wellFormed ti = true
    ∧ (Instr.illegalRequest 0x00 []).wellFormed ti = true ∧ (Instr.reset).wellFormed ti = true := by decide

/-- Each clause: a FEED of the one path to an idle block; a LATEST while `BUSY = 1`; a FEED of another path. -/
theorem witness_step_runs_request :
    decodeRequest [0x01, 0x24] = .ok (.feed [0x24]) ∧ State.reset.busy = false
    ∧ decodeRequest [0x02, 0x00] = .ok (.latest 0) ∧ (scanning [0x41]).busy = true
    ∧ ((∀ chunk, Instr.latest 0 ≠ .feed chunk) ∧ Instr.latest 0 ≠ .bufLen ∧ Instr.latest 0 ≠ .reset)
    ∧ Agent.readingHost ≠ .feedingHost := by
  refine ⟨rfl, rfl, rfl, rfl, ⟨nofun, by decide, by decide⟩, by decide⟩

theorem witness_step_runs_element :
    (scanning [0x41]).framer = .scan 0 ∧ decodeElement ti ((scanning [0x41]).buf.drop 0) = .ok (.noise 0x41)
    ∧ (scanning [0x41]).turns = [] := by decide

theorem witness_step_runs_element_on_turn :
    decodeElement ti [0x41] = .ok (.noise 0x41)
    ∧ ({ scanning [0x41] with turns := [.framer] } : State).turns = [.framer] := by decide

theorem witness_step_runs_outbound_frame :
    decodeOutbound ti [0xB5, 0x62, 0x06, 0x01, 0x02, 0x00, 0xF0, 0x04, 0xFD, 0x15] = .ok (.queryRate 0xF0 0x04)
    ∧ decodeOutbound ti [0xB5, 0x62] = .error .notBuilderOutput := by
  decide

theorem witness_busy_block_holds_request :
    (scanning [0x41]).busy = true ∧ decodeRequest [0x01] = .ok (.feed []) ∧ decodeRequest [0x0C] = .ok .bufLen
    ∧ decodeRequest [0x0D] = .ok .reset := by decide

/-- A FEED in progress is a legal state. -/
theorem witness_inv : Inv (scanning [0x41]) :=
  ⟨by decide, by decide, by decide, by decide, by decide, by decide, by decide⟩

theorem witness_step_keeps_invariant :
    Inv (scanning [0x41]) ∧ step (scanning [0x41]) = .next { scanning [0x41] with framer := .scan 1 } :=
  ⟨witness_inv, rfl⟩

theorem witness_legal_hosts :
    hostsAreLegal { State.reset with turns := [.request .feedingHost [0x01, 0x24], .framer,
      .transmit [0xB5, 0x62, 0x06, 0x01, 0x02, 0x00, 0xF0, 0x04, 0xFD, 0x15]] } = true := by decide

theorem witness_parameters_never_change :
    step (scanning [0x41]) = .next { scanning [0x41] with framer := .scan 1 } := rfl

theorem witness_logs_only_grow :
    step (scanning [0x41]) = .next { scanning [0x41] with framer := .scan 1 }
    ∧ nextMove (scanning [0x41]) ≠ .host .reset := ⟨rfl, by decide⟩

/-- A FEED that is accepted; a LATEST answered while a FEED runs; a frame for the sink; a BUF_LEN that is held. -/
theorem witness_hosts_never_write :
    ((Instr.feed [0x24]).channel ≠ .inbound ∧ Instr.feed [0x24] ≠ .reset
      ∧ exec (.feed [0x24]) State.reset = .next { State.reset with busy := true, framer := .append [0x24] })
    ∧ ((Instr.latest 0).channel ≠ .inbound ∧ Instr.latest 0 ≠ .reset
      ∧ exec (.latest 0) (scanning [0x41]) = .next { scanning [0x41] with responses := [⟨none, .record none⟩] })
    ∧ ((Instr.queryRate 0x00 0x00).channel ≠ .inbound ∧ Instr.queryRate 0x00 0x00 ≠ .reset
      ∧ exec (.queryRate 0x00 0x00) State.reset = .next { State.reset with
          sink := [[0xB5, 0x62, 0x06, 0x01, 0x02, 0x00, 0x00, 0x00, 0x09, 0x31]] })
    ∧ ((Instr.bufLen).channel ≠ .inbound ∧ Instr.bufLen ≠ .reset
      ∧ exec .bufLen (scanning [0x41]) = .next (scanning [0x41])) :=
  ⟨⟨by decide, by decide, rfl⟩, ⟨by decide, by decide, rfl⟩, ⟨by decide, by decide, rfl⟩, ⟨by decide, by decide, rfl⟩⟩

theorem witness_one_entry : (Instr.noise 0x41).channel = .inbound := rfl

/-- The cursor at the end of the buffer, and inside it at a `'$'` and at both magic bytes. -/
theorem witness_scan_step :
    (scanning []).framer = .scan 0 ∧ 0 ≤ (scanning []).buf.length
    ∧ (byteAt (scanning [0x24]).buf 0 = dollar ∧ 0 ≤ (scanning [0x24]).buf.length)
    ∧ (byteAt (scanning [0xB5, 0x62]).buf 0 = ti.magic0 ∧ byteAt (scanning [0xB5, 0x62]).buf 1 = ti.magic1
      ∧ 0 + 1 < (scanning [0xB5, 0x62]).buf.length) := by decide

theorem witness_append : ({ scanning [0x41] with framer := .append [0x24] } : State).framer = .append [0x24] := rfl

theorem witness_compact : ({ scanning [0x41] with framer := .compact 1 } : State).framer = .compact 1 := rfl

theorem witness_bound (s : State) (h : s = { scanning [] with framer := .bound, buf := List.replicate 2048 0x7A }) :
    s.framer = .bound ∧ s.buf.length ≤ 2048 := by
  subst h
  exact ⟨rfl, by rw [List.length_replicate]⟩

theorem witness_bound_overflow (s : State)
    (h : s = { scanning [] with framer := .bound, buf := List.replicate 2049 0x7A }) :
    s.framer = .bound ∧ 2048 < s.buf.length := by
  subst h
  exact ⟨rfl, by rw [List.length_replicate]; decide⟩

theorem witness_feed_completes :
    State.reset.busy = false
    ∧ ({ State.reset with turns := [.request .feedingHost (encode ti (.feed [0x24]))] } : State).turns
      = [.request .feedingHost (encode ti (.feed [0x24]))] := ⟨rfl, rfl⟩

/-- The state after the chunks `B5` and `41`, and after `B5 41`. -/
theorem witness_chunking :
    atRest State.reset = true ∧ ti.retainLoneMagic0 = true
    ∧ (nextOf (run 12 { State.reset with turns := hostProgram .feedingHost ti ([[0xB5], [0x41]].map .feed) })).map
        (fun t => (atRest t, t.turns, overflowCount t.diag)) = some (true, [], 0)
    ∧ (nextOf (run 7 { State.reset with turns := hostProgram .feedingHost ti [.feed [[0xB5], [0x41]].flatten] })).map
        (fun t => (atRest t, t.turns, overflowCount t.diag)) = some (true, [], 0) := by decide

theorem witness_reset_inv : Inv State.reset :=
  ⟨by decide, by decide, by decide, by decide, by decide, by decide, by decide⟩

theorem witness_empty_feed :
    Inv { State.reset with turns := [.request .feedingHost (encode ti (.feed []))] }
    ∧ atRest { State.reset with turns := [.request .feedingHost (encode ti (.feed []))] } = true :=
  ⟨⟨by decide, by decide, by decide, by decide, by decide, by decide, by decide⟩, rfl⟩

theorem witness_noise : atRest State.reset = true ∧ State.reset.buf = [] ∧ ∀ p, p < [(0x41 : Byte)].length → isNoiseAt ti [0x41] p := by
  refine ⟨rfl, rfl, fun p hp => ?_⟩
  obtain rfl : p = 0 := by simpa using hp
  exact ⟨by decide, fun h => absurd h (by decide)⟩

/-- Form (b), both outcomes: a pending `'$'` that the chunk neither ends nor overflows, and one that it overflows. -/
theorem witness_unterminated (n : Nat) (_h : n = 2047 ∨ n = 2048) :
    atRest { State.reset with buf := [dollar] } = true ∧ noCrLf ([] ++ List.replicate n 0x7A) = true := by
  refine ⟨rfl, ?_⟩
  have none : ∀ m : Nat, beforeCrLf (List.replicate m 0x7A) = none := by
    intro m
    induction m with
    | zero => rfl
    | succ m ih =>
      rw [List.replicate_succ, beforeCrLf, if_neg (fun hc => absurd hc.1 (by decide)), ih]
      rfl
  rw [List.nil_append, noCrLf, none]
  rfl

/-- Form (c): 5 header bytes, and a frame one byte short of its length; form (d): a lone `MAGIC0`. -/
theorem witness_pending_frame :
    ti.meetsConstraints = true ∧ ([0xB5, 0x62, 0x06, 0x01, 0x03] : Bytes).length < 6
    ∧ ([0xB5, 0x62, 0x06, 0x01, 0x00, 0x00, 0x07] : Bytes).length < 8 + (0x00 : Byte).toNat + 256 * (0x00 : Byte).toNat
    ∧ ([0xB5] : Bytes) = [ti.magic0] ∧ ti.retainLoneMagic0 = true
    ∧ atRest { State.reset with buf := [0xB5, 0x62] } = true := by decide

/-- A sentence without data fields is accepted. -/
theorem witness_fields_accepted (k : Kind) : fieldsAccepted ti k (kindBody k 0x47 0x50 []) := by
  refine .inr fun i h1 _ ⟨d, hd, _⟩ => ?_
  have hs : splitCommas (kindBody k 0x47 0x50 []) = [kindBody k 0x47 0x50 []] := by cases k <;> rfl
  rw [hs] at hd
  obtain ⟨j, rfl⟩ : ∃ j, i = j + 1 := ⟨i - 1, by omega⟩
  simp at hd

theorem witness_slot_sentence : hasSlot .rmc = true ∧ fieldsAccepted ti .rmc (kindBody .rmc 0x47 0x50 []) :=
  ⟨rfl, witness_fields_accepted .rmc⟩

theorem witness_slotless_sentence : hasSlot .gst = false ∧ fieldsAccepted ti .gst (kindBody .gst 0x47 0x50 []) :=
  ⟨rfl, witness_fields_accepted .gst⟩

/-- A first field of 17 bytes. -/
theorem witness_overlong :
    ti.fieldPolicy = .reject ∧ 1 ≤ fieldCount ti .rmc ∧ overlong ti .rmc (kindBody .rmc 0x47 0x50 (comma :: List.replicate 17 0x30)) 1
    ∧ ∀ j, 1 ≤ j → j < 1 → ¬ overlong ti .rmc (kindBody .rmc 0x47 0x50 (comma :: List.replicate 17 0x30)) j := by
  refine ⟨rfl, by decide, ⟨List.replicate 17 0x30, by decide, by decide⟩, fun j h1 h2 => by omega⟩

theorem witness_bad_sentence :
    (scanning [0x24, 0x0D, 0x0A]).buf.drop 0 = dollar :: ([] ++ cr :: lf :: []) ∧ beforeCrLf ([] ++ [cr]) = none
    ∧ validateNmea (dollar :: ([] ++ [cr, lf])) = false := by decide

theorem witness_noise_byte : (scanning [0x41]).framer = .scan 0 := rfl

theorem witness_short_payload : ([] : Bytes).length < 2 ∧ [(0x06 : Byte)].length < 2 ∧ [(0xF0 : Byte), 0x04].length < 3 := by
  decide

theorem witness_target : targetValid State.reset.cfg 0xF0 0x04 = true := by decide

theorem witness_invalid_target :
    targetValid ({ State.reset with cfg := picky } : State).cfg 0xF0 0x04 = false := by
  decide

/-- A valid instance with `SUB_RATE_QUERY = SUB_RATE_RESP`. -/
theorem witness_built_frames : ti.valid = true ∧ ti.subRateQuery = ti.subRateResp := by decide

/-- Parameters that meet 00 R8 and give the query frame the key of ACK, and of NAK (log entry 23). -/
theorem witness_built_frames_key :
    Config.meetsConstraints { ti with grpCfg := 0x05, subRateQuery := 0x01, subRateResp := 0x02 } = true
    ∧ Config.meetsConstraints { ti with grpCfg := 0x05, subRateQuery := 0x00, subRateResp := 0x02 } = true
    ∧ (0x05, 0x01) = (ti.grpResp, ti.subAck) ∧ (0x05, 0x00) = (ti.grpResp, ti.subNak) := by decide

theorem witness_feed_accepted : State.reset.busy = false := rfl

/-- The least code above the ten. -/
theorem witness_latest : 9 < (10 : Byte).toNat := by decide

/-- The clauses of PARSE_FRAME: a wrong first and a wrong second byte; nothing and a lone `MAGIC0`; 5 header bytes and a
frame one byte short; a whole frame. -/
theorem witness_parse_frame :
    (([0x62] : Bytes) ≠ [] ∧ byteAt [0x62] 0 ≠ ti.magic0) ∧ (2 ≤ ([0xB5, 0x00] : Bytes).length ∧ byteAt [0xB5, 0x00] 1 ≠ ti.magic1)
    ∧ ([0xB5] : Bytes) = [ti.magic0]
    ∧ ([0xB5, 0x62, 0x06, 0x01, 0x03] : Bytes).length < 6
    ∧ ([0xB5, 0x62, 0x06, 0x01, 0x00, 0x00, 0x07] : Bytes).length < 8 + (0x00 : Byte).toNat + 256 * (0x00 : Byte).toNat
    ∧ ([0xB5, 0x62, 0x06, 0x01, 0x00, 0x00, 0x07, 0x1B] : Bytes) = encodeFrameWith ti 0x06 0x01 [] (0x07, 0x1B) ++ [] := by
  decide

theorem witness_dispatch_map :
    ti.meetsConstraints = true ∧ ([0x06] : Bytes).length < 2 ∧ ([0xF0, 0x04] : Bytes).length < 3
    ∧ ((0x0A : Byte), (0x04 : Byte)) ≠ (ti.grpResp, ti.subAck) ∧ ((0x0A : Byte), (0x04 : Byte)) ≠ (ti.grpResp, ti.subNak)
    ∧ ((0x0A : Byte), (0x04 : Byte)) ≠ (ti.grpCfg, ti.subRateResp) := by decide

/-- A result of each status (42 R160). -/
theorem witness_consumed :
    (parseFrame ti []).status = .incomplete ∧ (parseFrame ti [0x62]).status = .badMagic
    ∧ (parseFrame ti [0xB5, 0x62, 0x0A, 0x04, 0x00, 0x00, 0x0E, 0x34]).status = .ok
    ∧ (parseFrame ti [0xB5, 0x62, 0x0A, 0x04, 0x00, 0x00, 0x0E, 0x35]).status = .checksumMismatch := by decide

/-- The clauses of PARSE_NMEA (the last two share `witness_overlong` and `witness_fields_accepted`). -/
theorem witness_parse_nmea :
    validateNmea [] = false ∧ (validateNmea [0x24, 0x2A, 0x30, 0x30] = true ∧ classify [0x24, 0x2A, 0x30, 0x30] = none)
    ∧ ([0x24, 0x47, 0x50, 0x52, 0x4D, 0x43, 0x2A, 0x34, 0x42] : Bytes) ++ [cr, lf] = encodeKind .rmc 0x47 0x50 [] := by decide

theorem witness_named_fields :
    (0x47 : Byte) ≠ comma ∧ (∀ v ∈ [[(0x41 : Byte)]], comma ∉ v)
    ∧ ∀ (k : Kind) (i : Nat) (v : Bytes), k = .rmc ∨ k = .gga → i < fieldCount ti k → [[(0x41 : Byte)]][i]? = some v →
      v.length ≤ fieldMax ti k (i + 1) := by
  refine ⟨by decide, by decide, fun k i v hk _ hv => ?_⟩
  cases i with
  | succ i => simp at hv
  | zero =>
    obtain rfl : [0x41] = v := by simpa using hv
    rcases hk with rfl | rfl <;> decide

theorem witness_illegal_request : (0 : Byte) = 0 ∧ 14 ≤ (0x0E : Byte).toNat := by decide

theorem witness_idle_block : State.reset.busy = false := rfl

end Sys2Proof.Tests
end

section
/-!
PROOFS. The parameters are fixed (O15): no operation on the state, hence no step, changes `cfg` (00 R7, 20 R50).
-/

namespace Sys2Proof.Machine

@[simp] theorem routeSentence_cfg (r : Except ErrorRecord Record) (n : Nat) (s : State) :
    (routeSentence r n s).cfg = s.cfg := by
  rcases routeSentence_cases r n s with ⟨_, _, h⟩ | ⟨_, _, h⟩ <;> rw [h]

@[simp] theorem acceptFrame_cfg (e : Event) (n : Nat) (s : State) : (acceptFrame e n s).cfg = s.cfg := by
  simp only [acceptFrame, advance_cfg, routeEvent_eq]

@[simp] theorem boundStep_cfg (s : State) : (boundStep s).cfg = s.cfg := by
  rcases boundStep_cases s with ⟨_, h⟩ | ⟨_, h⟩ <;> rw [h]

@[simp] theorem takeFramerTurn_cfg (s : State) : (takeFramerTurn s).cfg = s.cfg := by
  rcases takeFramerTurn_eq s with h | ⟨_, h⟩ <;> rw [h]
  exact takeTurn_cfg s

theorem ScanCase.cfg_eq {s t : State} {pos : Nat} (h : ScanCase s pos t) : t.cfg = s.cfg := by
  cases h with
  | stop _ eq => simp [eq]
  | sentence _ _ _ _ eq => simp [eq]
  | frame _ _ _ _ _ _ eq => simp [eq]
  | badFrame _ _ _ _ _ _ _ _ eq => simp [eq]
  | noise _ _ _ _ _ _ eq => simp [eq]

theorem HostCase.cfg_eq {i : Instr} {s t : State} (h : HostCase i s t) : t.cfg = s.cfg := by
  cases h with
  | held _ _ eq => rw [eq]
  | reply _ eq => simp [eq]
  | sent _ eq => simp [eq]
  | started _ _ _ eq => simp [eq]
  | wiped _ _ eq => simp [eq]

theorem framerStep_cfg {s t : State} (h : framerStep s = .next t) : t.cfg = s.cfg := by
  rcases framerStep_cases s with ⟨_, e⟩ | ⟨c, _, e⟩ | ⟨pos, u, _, e, hcase⟩ | ⟨pos, _, e⟩ | ⟨_, e⟩ <;>
    obtain rfl := Host.Outcome.next.inj (e.symm.trans h)
  · rfl
  · exact appendStep_cfg c s
  · exact hcase.cfg_eq
  · exact compactStep_cfg pos s
  · exact boundStep_cfg s

/-- Settles O15: the framer's steps and the hosts' instructions leave `cfg` alone, case by case. -/
theorem parametersNeverChange : Obligations.ParametersNeverChange := by
  intro s t h
  rcases step_cases h with ⟨_, hf⟩ | ⟨i, _, _, _, hcase⟩
  · rw [framerStep_cfg hf, takeFramerTurn_cfg]
  · exact hcase.cfg_eq

end Sys2Proof.Machine
end

section
/-!
PROOFS. The invariant of a legal state (O11): what a parsed sentence or frame may store, one lemma per operation on the
state that says when it keeps `Inv`, then the SCAN step, the framer's step, the hosts' instructions and the step.
-/

namespace Sys2Proof.Machine

/-! ## What is stored fits (10 R24, R31, R32; 60 R241) -/

theorem exceptMap_eq_ok {ε α β : Type} {f : α → β} {x : Except ε α} {b : β} (h : x.map f = .ok b) :
    ∃ a, x = .ok a ∧ f a = b := by
  cases x with
  | error e => simp [Except.map] at h
  | ok a => exact ⟨a, rfl, Except.ok.inj h⟩

theorem one_le_fieldMaxima {cfg : Config} (hcfg : cfg.meetsConstraints = true) (k : Kind) :
    ∀ m ∈ fieldMaxima cfg k, 1 ≤ m := by
  simp only [Config.meetsConstraints, Bool.and_eq_true, List.all_eq_true, decide_eq_true_eq] at hcfg
  obtain ⟨_, hmax⟩ := hcfg
  exact hmax k (by cases k <;> decide)

/-- The field mapping fills each position with `None` or with 1 to `FIELD_MAX` bytes (41 R126 to R128). -/
theorem fieldsFit_mapFields {policy : FieldPolicy} {k : Kind} {i : Nat} {maxima : List Nat} {data : List Bytes}
    {fields : List (Option Bytes)} (hmax : ∀ m ∈ maxima, 1 ≤ m) (h : mapFields policy k i maxima data = .ok fields) :
    fieldsFit maxima fields = true := by
  induction maxima generalizing i data fields with
  | nil =>
    obtain rfl := Except.ok.inj h
    rfl
  | cons m ms ih =>
    have hm : 1 ≤ m := hmax m List.mem_cons_self
    have hms : ∀ m ∈ ms, 1 ≤ m := fun n hn => hmax n (List.mem_cons_of_mem m hn)
    have fill : ∀ (x : Option Bytes) (rest : List Bytes), (∀ b, x = some b → 1 ≤ b.length ∧ b.length ≤ m) →
        (mapFields policy k (i + 1) ms rest).map (x :: ·) = .ok fields → fieldsFit (m :: ms) fields = true := by
      intro x rest hx hr
      obtain ⟨tail, htail, rfl⟩ := exceptMap_eq_ok hr
      cases x with
      | none => exact ih hms htail
      | some b => simp [fieldsFit, hx b rfl, ih hms htail]
    cases data with
    | nil => exact fill none [] (by simp) h
    | cons d ds =>
      simp only [mapFields] at h
      split at h
      · exact fill none ds (by simp) h
      · rename_i hd
        split at h
        · cases policy with
          | reject => simp at h
          | truncate =>
            refine fill (some (d.take m)) ds ?_ h
            rintro b ⟨⟩
            rw [List.length_take]
            omega
        · refine fill (some d) ds ?_ h
          rintro b ⟨⟩
          omega

theorem recordFits_buildRecord {cfg : Config} {k : Kind} {talker : Byte × Byte} {body : Bytes} {r : Record}
    (hcfg : cfg.meetsConstraints = true) (h : buildRecord cfg k talker body = .ok r) : recordFits cfg r = true := by
  obtain ⟨hkind, _, hfields⟩ := buildRecord_ok h
  rw [recordFits, hkind]
  exact fieldsFit_mapFields (one_le_fieldMaxima hcfg k) hfields

/-- An accepted sentence is a record as 10 R31 has it. -/
theorem recordFits_parseNmea {cfg : Config} {text : Bytes} {r : Record} (hcfg : cfg.meetsConstraints = true)
    (h : parseNmea cfg text = .ok r) : recordFits cfg r = true := by
  rcases parseNmea_cases cfg text with ⟨_, e⟩ | ⟨_, _, e⟩ | ⟨k, _, _, e⟩ <;> rw [e] at h
  · cases h
  · cases h
  · exact recordFits_buildRecord hcfg h

/-- A rejected sentence gives one of the codes that `DIAG` records (60 R241). -/
theorem isDiagnostic_parseNmea {cfg : Config} {text : Bytes} {e : ErrorRecord} (h : parseNmea cfg text = .error e) :
    isDiagnostic e = true := by
  rcases parseNmea_cases cfg text with ⟨_, he⟩ | ⟨_, _, he⟩ | ⟨k, _, _, he⟩ <;> rw [he] at h
  · obtain rfl := Except.error.inj h
    rfl
  · obtain rfl := Except.error.inj h
    rfl
  · obtain ⟨_, j, _, rfl⟩ := buildRecord_error h
    rfl

theorem eventFits_frameEvent (cfg : Config) (g u : Byte) {payload : Bytes} (h : payload.length ≤ 65535) :
    eventFits cfg (frameEvent cfg g u payload) = true := by
  simp only [frameEvent]
  split
  · rfl
  · split
    · rfl
    · split
      · rfl
      · simpa [eventFits, payloadFits] using h

/-- `snapFits`, read slot by slot. -/
theorem snapFits_iff (cfg : Config) (t : Snapshots) :
    snapFits cfg t = true ↔ ∀ k, slotFits cfg k (t.get k) = true := by
  constructor
  · intro h k
    simp only [snapFits, Bool.and_eq_true] at h
    obtain ⟨⟨⟨⟨⟨hrmc, hgga⟩, hgll⟩, hvtg⟩, hgsa⟩, hgsv⟩ := h
    cases k with
    | rmc => exact hrmc
    | gga => exact hgga
    | gll => exact hgll
    | gsa => exact hgsa
    | gsv => exact hgsv
    | vtg => exact hvtg
    | gst | grs | zda => rfl
  · intro h
    simp only [snapFits, Bool.and_eq_true]
    exact ⟨⟨⟨⟨⟨h .rmc, h .gga⟩, h .gll⟩, h .vtg⟩, h .gsa⟩, h .gsv⟩

/-- A slot replaced by a record of its own kind that fits keeps all slots as 10 R24 has them. -/
theorem snapFits_set {cfg : Config} {t : Snapshots} {r : Record} (ht : snapFits cfg t = true)
    (hr : recordFits cfg r = true) : snapFits cfg (t.set r.kind r) = true := by
  rw [snapFits_iff] at ht ⊢
  obtain ⟨hsame, hother, hnone⟩ := Snapshots.set_spec t r.kind r
  intro k
  by_cases hk : k = r.kind
  · subst hk
    cases hslot : hasSlot r.kind with
    | true => simp [hsame hslot, slotFits, hr]
    | false => rw [hnone hslot]; exact ht r.kind
  · rw [hother k hk]
    exact ht k

/-! ## `BUF` and the cursor, phase by phase (10 R21 to R23) -/

theorem framerFits_idle {s : State} (h : s.framer = .idle) :
    framerFits s = true ↔ restForm s.cfg s.buf = true ∧ s.buf.length ≤ bufMax := by
  simp [framerFits, h]

theorem framerFits_append {s : State} {chunk : Bytes} (h : s.framer = .append chunk) :
    framerFits s = true ↔ restForm s.cfg s.buf = true ∧ s.buf.length ≤ bufMax := by
  simp [framerFits, h]

theorem framerFits_scan {s : State} {pos : Nat} (h : s.framer = .scan pos) :
    framerFits s = true ↔ pos ≤ s.buf.length := by
  simp [framerFits, h]

theorem framerFits_compact {s : State} {pos : Nat} (h : s.framer = .compact pos) :
    framerFits s = true ↔ pos ≤ s.buf.length ∧ restForm s.cfg (s.buf.drop pos) = true := by
  simp [framerFits, h]

theorem framerFits_bound {s : State} (h : s.framer = .bound) :
    framerFits s = true ↔ restForm s.cfg s.buf = true := by
  simp [framerFits, h]

/-- While the block is not busy, no FEED is in progress (10 R28). -/
theorem Inv.idle_of_not_busy {s : State} (h : Inv s) (hb : s.busy = false) : s.framer = .idle := by
  simpa [hb] using h.busy

@[simp] theorem acceptRecord_buf (r : Record) (s : State) : (acceptRecord r s).buf = s.buf := by rw [acceptRecord_eq]

@[simp] theorem acceptRecord_framer (r : Record) (s : State) : (acceptRecord r s).framer = s.framer := by
  rw [acceptRecord_eq]

@[simp] theorem routeEvent_buf (e : Event) (s : State) : (routeEvent e s).buf = s.buf := by rw [routeEvent_eq]

@[simp] theorem routeEvent_framer (e : Event) (s : State) : (routeEvent e s).framer = s.framer := by rw [routeEvent_eq]

/-- The bytes of a frame are the `T` bytes that the cursor moves by (30 R65). -/
theorem length_frame (cfg : Config) (g u : Byte) (payload : Bytes) (ck : Byte × Byte) :
    (encodeFrameWith cfg g u payload ck).length = frameLength payload.length := by
  rw [Laws.EncodedLength.length_encodeFrameWith, frameLength, Nat.add_comm]

/-! ## Operations that keep the invariant -/

section Operations

variable {s : State}

/-- The invariant does not read the ports. -/
theorem inv_of_ports (h : Inv s) (turns : List Turn) (responses : List Response) (sink : List Bytes) :
    Inv { s with turns := turns, responses := responses, sink := sink } :=
  ⟨h.cfg, h.rate, h.snap, h.out, h.diag, h.busy, h.framer⟩

theorem inv_takeTurn (h : Inv s) : Inv (takeTurn s) := inv_of_ports h _ _ _

theorem inv_pushResponse (r : Response) (h : Inv s) : Inv (pushResponse r s) := inv_of_ports h _ _ _

theorem inv_transmit (frame : Bytes) (h : Inv s) : Inv (transmit frame s) := inv_of_ports h _ _ _

theorem inv_takeFramerTurn (h : Inv s) : Inv (takeFramerTurn s) := by
  rcases takeFramerTurn_eq s with e | ⟨_, e⟩ <;> rw [e]
  · exact h
  · exact inv_takeTurn h

theorem inv_emit {e : Event} (he : eventFits s.cfg e = true) (h : Inv s) : Inv (emit e s) :=
  { h with out := by simp [List.all_append, h.out, he] }

theorem inv_logDiag {e : ErrorRecord} (he : isDiagnostic e = true) (h : Inv s) : Inv (logDiag e s) :=
  { h with diag := by simp [List.all_append, h.diag, he] }

theorem inv_setRateEntry (g u r : Byte) (h : Inv s) : Inv (setRateEntry g u r s) :=
  { h with rate := Memory.wf_write _ _ _ h.rate (rateKey_lt g u) }

theorem inv_updateSnapshot {r : Record} (hr : recordFits s.cfg r = true) (h : Inv s) :
    Inv (updateSnapshot r.kind r s) :=
  { h with snap := snapFits_set h.snap hr }

/-- The cursor moves past bytes that stand at it (10 R23). -/
theorem inv_advance {pos n : Nat} {element rest : Bytes} (hscan : s.framer = .scan pos)
    (bytes : s.buf.drop pos = element ++ rest) (hn : element.length = n) (h : Inv s) : Inv (advance n s) := by
  have hpos : pos ≤ s.buf.length := (framerFits_scan hscan).mp h.framer
  have hlen : s.buf.length - pos = n + rest.length := by
    rw [← List.length_drop, bytes, List.length_append, hn]
  have hscan' : (advance n s).framer = .scan (pos + n) := by rw [advance_framer, hscan]; rfl
  refine { h with busy := ?_, framer := (framerFits_scan hscan').mpr ?_ }
  · rw [hscan', advance_busy, h.busy, hscan]; rfl
  · rw [advance_buf]; omega

theorem inv_stopScan {pos : Nat} (hscan : s.framer = .scan pos) (hrest : restForm s.cfg (s.buf.drop pos) = true)
    (h : Inv s) : Inv (stopScan pos s) := by
  refine { h with busy := ?_, framer := (framerFits_compact rfl).mpr ⟨(framerFits_scan hscan).mp h.framer, hrest⟩ }
  rw [stopScan_busy, h.busy, hscan]; rfl

theorem inv_appendStep {chunk : Bytes} (happend : s.framer = .append chunk) (h : Inv s) : Inv (appendStep chunk s) := by
  refine { h with busy := ?_, framer := (framerFits_scan rfl).mpr (Nat.zero_le _) }
  rw [appendStep_busy, h.busy, happend]; rfl

theorem inv_compactStep {pos : Nat} (hcompact : s.framer = .compact pos) (h : Inv s) : Inv (compactStep pos s) := by
  obtain ⟨_, hrest⟩ := (framerFits_compact hcompact).mp h.framer
  refine { h with busy := ?_, framer := (framerFits_bound rfl).mpr hrest }
  rw [compactStep_busy, h.busy, hcompact]; rfl

/-- BOUND leaves an at-rest buffer, kept or emptied, and clears `BUSY` with the phase (44 R189). -/
theorem inv_boundStep (hbound : s.framer = .bound) (h : Inv s) : Inv (boundStep s) := by
  have hrest : restForm s.cfg s.buf = true := (framerFits_bound hbound).mp h.framer
  rcases boundStep_cases s with ⟨hlen, e⟩ | ⟨_, e⟩ <;> rw [e]
  · exact { h with busy := rfl, framer := (framerFits_idle rfl).mpr ⟨hrest, hlen⟩ }
  · exact { h with
      diag := by simp [List.all_append, h.diag, isDiagnostic]
      busy := rfl
      framer := (framerFits_idle rfl).mpr ⟨rfl, Nat.zero_le _⟩ }

theorem inv_startFeed (chunk : Bytes) (hb : s.busy = false) (h : Inv s) : Inv (startFeed chunk s) :=
  { h with
    busy := rfl
    framer := (framerFits_append rfl).mpr ((framerFits_idle (h.idle_of_not_busy hb)).mp h.framer) }

theorem inv_resetBlock (h : Inv s) : Inv (resetBlock s) where
  cfg := h.cfg
  rate := rfl
  snap := rfl
  out := rfl
  diag := rfl
  busy := rfl
  framer := (framerFits_idle rfl).mpr ⟨rfl, Nat.zero_le _⟩

theorem inv_acceptRecord {r : Record} (hr : recordFits s.cfg r = true) (h : Inv s) : Inv (acceptRecord r s) := by
  simp only [acceptRecord]
  split
  · exact inv_emit hr (inv_updateSnapshot hr h)
  · exact inv_emit hr h

theorem inv_routeEvent {e : Event} (he : eventFits s.cfg e = true) (h : Inv s) : Inv (routeEvent e s) := by
  cases e with
  | rate tg ts r => exact inv_emit he (inv_setRateEntry tg ts r h)
  | nmea | ack | nak | unhandled => exact inv_emit he h

/-! ## Steps that keep the invariant -/

theorem inv_scanCase {t : State} {pos : Nat} (hscan : s.framer = .scan pos) (h : Inv s) (hcase : ScanCase s pos t) :
    Inv t := by
  cases hcase with
  | stop hrest eq =>
    rw [eq]
    exact inv_stopScan hscan hrest h
  | sentence text rest bytes _ eq =>
    rw [eq]
    cases hparse : parseNmea s.cfg (dollar :: (text ++ [cr, lf])) with
    | ok r =>
      have hr := recordFits_parseNmea h.cfg hparse
      exact inv_advance ((acceptRecord_framer r s).trans hscan) ((acceptRecord_buf r s).symm ▸ bytes) (by simp)
        (inv_acceptRecord hr h)
    | error e => exact inv_advance hscan bytes (by simp) (inv_logDiag (isDiagnostic_parseNmea hparse) h)
  | frame g u payload rest fits bytes eq =>
    rw [eq]
    exact inv_advance ((routeEvent_framer _ s).trans hscan) ((routeEvent_buf _ s).symm ▸ bytes)
      (length_frame s.cfg g u payload _) (inv_routeEvent (eventFits_frameEvent s.cfg g u fits) h)
  | badFrame g u payload ck rest _ bytes _ eq =>
    rw [eq]
    exact inv_advance hscan bytes (length_frame s.cfg g u payload ck) (inv_logDiag rfl h)
  | noise x rest bytes _ _ _ eq =>
    rw [eq]
    exact inv_advance (element := [x]) hscan bytes rfl h

theorem inv_framerStep {t : State} (h : Inv s) (ht : framerStep s = .next t) : Inv t := by
  rcases framerStep_cases s with
    ⟨_, e⟩ | ⟨chunk, hphase, e⟩ | ⟨pos, u, hphase, e, hcase⟩ | ⟨pos, hphase, e⟩ | ⟨hphase, e⟩ <;>
    obtain rfl := Host.Outcome.next.inj (e.symm.trans ht)
  · exact h
  · exact inv_appendStep hphase h
  · exact inv_scanCase hphase h hcase
  · exact inv_compactStep hphase h
  · exact inv_boundStep hphase h

theorem inv_hostCase {i : Instr} {t : State} (h : Inv s) (hcase : HostCase i s t) : Inv t := by
  cases hcase with
  | held _ _ eq => rwa [eq]
  | reply r eq => exact eq ▸ inv_pushResponse r (inv_takeTurn h)
  | sent frame eq => exact eq ▸ inv_transmit frame h
  | started chunk _ hb eq => exact eq ▸ inv_startFeed chunk hb (inv_takeTurn h)
  | wiped _ _ eq => exact eq ▸ inv_pushResponse _ (inv_takeTurn (inv_resetBlock h))

end Operations

/-- Settles O11: a step is the framer's or a host's, and each keeps the invariant. -/
theorem stepKeepsInvariant : Obligations.StepKeepsInvariant := by
  intro s t h ht
  rcases step_cases ht with ⟨_, hf⟩ | ⟨i, _, _, _, hcase⟩
  · exact inv_framerStep (inv_takeFramerTurn h) hf
  · exact inv_hostCase h hcase

end Sys2Proof.Machine
end

section
/-!
PROOFS. Acceptance and holding of transactions (O43, O10), the start-up state (O12) and the logs (O16): what each case of
a step does to the turns and to `OUT` and `DIAG`.
-/

namespace Sys2Proof.Machine

/-! ## A FEED that is accepted, a transaction that is held (10 R28; 45 R218, R229; 70 R271) -/

theorem exec_feed_of_idle {s : State} (chunk : Bytes) (hb : s.busy = false) :
    exec (.feed chunk) s = .next (startFeed chunk (takeTurn s)) := by
  simp only [exec, execFeed, hb, Bool.false_eq_true, if_false]

/-- Settles O43: `startFeed` after `takeTurn` sets `BUSY`, the phase and the turns. -/
theorem feedIsAccepted : Obligations.FeedIsAccepted := fun _ chunk hb => exec_feed_of_idle chunk hb

theorem isHeld_iff (i : Instr) (s : State) :
    isHeld i s = true ↔ s.busy = true ∧ ((∃ chunk, i = .feed chunk) ∨ i = .bufLen ∨ i = .reset) := by
  simp only [isHeld, Bool.and_eq_true]
  cases i <;> simp [waitsForIdle]

theorem exec_of_isHeld {i : Instr} {s : State} (h : isHeld i s = true) : exec i s = .next s := by
  obtain ⟨hb, ⟨chunk, rfl⟩ | rfl | rfl⟩ := (isHeld_iff i s).mp h
  · simp only [exec, execFeed, hb, if_true]
  · simp only [exec, execBufLen, hb, if_true]
  · simp only [exec, execReset, hb, if_true]

/-- A request that is held leaves the move to the framer, and is no turn of the framer's to be taken. -/
theorem step_of_isHeld {s : State} {agent : Agent} {req : Bytes} {rest : List Turn} {i : Instr}
    (hturns : s.turns = .request agent req :: rest) (hreq : decodeRequest req = .ok i)
    (hpath : isSecondPath agent i = false) (hheld : isHeld i s = true) : step s = framerStep s := by
  have hmove : nextMove s = .framer := by simp [nextMove, hturns, hreq, hpath, hheld]
  have htake : takeFramerTurn s = s := by simp [takeFramerTurn, hturns]
  simp only [step, hmove, htake]

@[simp] theorem routeSentence_turns (r : Except ErrorRecord Record) (n : Nat) (s : State) :
    (routeSentence r n s).turns = s.turns := by
  rcases routeSentence_cases r n s with ⟨_, _, h⟩ | ⟨_, _, h⟩ <;> rw [h]

@[simp] theorem acceptFrame_turns (e : Event) (n : Nat) (s : State) : (acceptFrame e n s).turns = s.turns := by
  simp only [acceptFrame, advance_turns, routeEvent_eq]

@[simp] theorem boundStep_turns (s : State) : (boundStep s).turns = s.turns := by
  rcases boundStep_cases s with ⟨_, h⟩ | ⟨_, h⟩ <;> rw [h]

theorem ScanCase.turns_eq {s t : State} {pos : Nat} (h : ScanCase s pos t) : t.turns = s.turns := by
  cases h with
  | stop _ eq => simp [eq]
  | sentence _ _ _ _ eq => simp [eq]
  | frame _ _ _ _ _ _ eq => simp [eq]
  | badFrame _ _ _ _ _ _ _ _ eq => simp [eq]
  | noise _ _ _ _ _ _ eq => simp [eq]

/-- The framer's own step takes no turn; `takeFramerTurn` before it does. -/
theorem framerStep_turns {s t : State} (h : framerStep s = .next t) : t.turns = s.turns := by
  rcases framerStep_cases s with ⟨_, e⟩ | ⟨c, _, e⟩ | ⟨pos, u, _, e, hcase⟩ | ⟨pos, _, e⟩ | ⟨_, e⟩ <;>
    obtain rfl := Host.Outcome.next.inj (e.symm.trans h)
  · rfl
  · exact appendStep_turns c s
  · exact hcase.turns_eq
  · exact compactStep_turns pos s
  · exact boundStep_turns s

/-- Settles O10: the request is held, so the framer moves, and the framer takes no turn. -/
theorem busyBlockHoldsRequest : Obligations.BusyBlockHoldsRequest := by
  intro s agent req rest i hturns hreq hb hwaits
  have hheld : isHeld i s = true := (isHeld_iff i s).mpr ⟨hb, hwaits.imp_left And.left⟩
  have hpath : isSecondPath agent i = false := by
    obtain ⟨⟨chunk, rfl⟩, rfl⟩ | rfl | rfl := hwaits <;> rfl
  have hstep := step_of_isHeld hturns hreq hpath hheld
  exact ⟨hstep, exec_of_isHeld hheld, fun t ht => framerStep_turns (hstep ▸ ht)⟩

/-! ## The start-up state (70 R270) -/

theorem inv_start {cfg : Config} (hcfg : cfg.meetsConstraints = true) : Inv (State.start cfg) where
  cfg := hcfg
  rate := rfl
  snap := rfl
  out := rfl
  diag := rfl
  busy := rfl
  framer := (framerFits_idle rfl).mpr ⟨rfl, Nat.zero_le _⟩

/-- Settles O12: nothing is stored at start-up, and TI meets 00 R8. -/
theorem startStateIsLegal : Obligations.StartStateIsLegal :=
  ⟨fun _ hcfg => inv_start hcfg, inv_start (by decide)⟩

/-! ## The logs only grow (10 R26, R27; 60 R257) -/

/-- `OUT` and `DIAG` keep their entries, in order. -/
def LogsExtend (s t : State) : Prop := s.out <+: t.out ∧ s.diag <+: t.diag

theorem LogsExtend.of_eq {s t : State} (hout : t.out = s.out) (hdiag : t.diag = s.diag) : LogsExtend s t :=
  ⟨hout ▸ List.prefix_rfl, hdiag ▸ List.prefix_rfl⟩

theorem LogsExtend.of_out {s t : State} {e : Event} (hout : t.out = s.out ++ [e]) (hdiag : t.diag = s.diag) :
    LogsExtend s t :=
  ⟨hout ▸ List.prefix_append _ _, hdiag ▸ List.prefix_rfl⟩

theorem LogsExtend.of_diag {s t : State} {d : ErrorRecord} (hout : t.out = s.out) (hdiag : t.diag = s.diag ++ [d]) :
    LogsExtend s t :=
  ⟨hout ▸ List.prefix_rfl, hdiag ▸ List.prefix_append _ _⟩

theorem logsExtend_routeSentence (r : Except ErrorRecord Record) (n : Nat) (s : State) :
    LogsExtend s (routeSentence r n s) := by
  rcases routeSentence_cases r n s with ⟨_, _, h⟩ | ⟨_, _, h⟩ <;> rw [h]
  · exact .of_out rfl rfl
  · exact .of_diag rfl rfl

theorem logsExtend_acceptFrame (e : Event) (n : Nat) (s : State) : LogsExtend s (acceptFrame e n s) := by
  rw [acceptFrame, routeEvent_eq]
  exact .of_out rfl rfl

theorem logsExtend_boundStep (s : State) : LogsExtend s (boundStep s) := by
  rcases boundStep_cases s with ⟨_, h⟩ | ⟨_, h⟩ <;> rw [h]
  · exact .of_eq rfl rfl
  · exact .of_diag rfl rfl

theorem ScanCase.logsExtend {s t : State} {pos : Nat} (h : ScanCase s pos t) : LogsExtend s t := by
  cases h with
  | stop _ eq => exact eq ▸ .of_eq rfl rfl
  | sentence _ _ _ _ eq => exact eq ▸ logsExtend_routeSentence _ _ s
  | frame _ _ _ _ _ _ eq => exact eq ▸ logsExtend_acceptFrame _ _ s
  | badFrame _ _ _ _ _ _ _ _ eq => exact eq ▸ .of_diag rfl rfl
  | noise _ _ _ _ _ _ eq => exact eq ▸ .of_eq rfl rfl

theorem logsExtend_framerStep {s t : State} (h : framerStep s = .next t) : LogsExtend s t := by
  rcases framerStep_cases s with ⟨_, e⟩ | ⟨c, _, e⟩ | ⟨pos, u, _, e, hcase⟩ | ⟨pos, _, e⟩ | ⟨_, e⟩ <;>
    obtain rfl := Host.Outcome.next.inj (e.symm.trans h)
  · exact .of_eq rfl rfl
  · exact .of_eq rfl rfl
  · exact hcase.logsExtend
  · exact .of_eq rfl rfl
  · exact logsExtend_boundStep s

/-- The one transaction that shortens a log is RESET (70 R270, R271). -/
theorem HostCase.logsExtend {i : Instr} {s t : State} (hi : i ≠ .reset) (h : HostCase i s t) : LogsExtend s t := by
  cases h with
  | held _ _ eq => exact eq ▸ .of_eq rfl rfl
  | reply _ eq => exact eq ▸ .of_eq rfl rfl
  | sent _ eq => exact eq ▸ .of_eq rfl rfl
  | started _ _ _ eq => exact eq ▸ .of_eq rfl rfl
  | wiped instr _ _ => exact absurd instr hi

theorem takeFramerTurn_out_diag (s : State) : (takeFramerTurn s).out = s.out ∧ (takeFramerTurn s).diag = s.diag := by
  rcases takeFramerTurn_eq s with h | ⟨_, h⟩ <;> rw [h] <;> exact ⟨rfl, rfl⟩

/-- Settles O16: the framer's steps and the hosts' instructions but RESET extend the logs, case by case. -/
theorem logsOnlyGrow : Obligations.LogsOnlyGrow := by
  intro s t ht hne
  rcases step_cases ht with ⟨_, hf⟩ | ⟨i, hmove, _, _, hcase⟩
  · obtain ⟨hout, hdiag⟩ := takeFramerTurn_out_diag s
    rw [← hout, ← hdiag]
    exact logsExtend_framerStep hf
  · exact hcase.logsExtend fun hi => hne (hi ▸ hmove)

end Sys2Proof.Machine
end

section
/-!
PROOFS. A FEED behind a pending partial message (O28): what the scan stops at, then the five steps of a FEED whose scan
stops at once, alone at the block.
-/

namespace Sys2Proof.Machine

/-! ## Where the scan stops (10 R22 (b) to (d); 44 R183, R184) -/

theorem decodeElement_unterminated (cfg : Config) {rest : Bytes} (h : noCrLf rest = true) :
    decodeElement cfg (dollar :: rest) = .error .unterminatedSentence := by
  have hn : beforeCrLf rest = none := by simpa [noCrLf] using h
  simp only [decodeElement, if_true, decodeSentence, hn]

theorem magic0_ne_dollar {cfg : Config} (hcfg : cfg.meetsConstraints = true) : cfg.magic0 ≠ dollar := by
  simp only [Config.meetsConstraints, Bool.and_eq_true, bne_iff_ne] at hcfg
  obtain ⟨⟨⟨hm, _⟩, _⟩, _⟩ := hcfg
  exact hm

theorem payloadLength_eq (b : Bytes) : payloadLength b = (byteAt b 4).toNat + 256 * (byteAt b 5).toNat :=
  littleEndian_toNat _ _

theorem decodeElement_incompleteFrame {cfg : Config} (hm : cfg.magic0 ≠ dollar) {b rest : Bytes}
    (hb : b = cfg.magic0 :: cfg.magic1 :: rest)
    (hshort : b.length < 6 ∨ b.length < 8 + (byteAt b 4).toNat + 256 * (byteAt b 5).toNat) :
    decodeElement cfg b = .error .incompleteFrame := by
  have hframe : decodeElement cfg b = decodeFrame cfg b := by
    simp only [hb, decodeElement, if_neg hm, if_true]
  rw [hframe, decodeFrame]
  by_cases h6 : b.length < 6
  · rw [if_pos h6]
  · have hT : b.length < frameLength (payloadLength b) := by
      rw [frameLength, payloadLength_eq]
      omega
    rw [if_neg h6, if_pos hT]

theorem decodeElement_loneMagic0 {cfg : Config} (hm : cfg.magic0 ≠ dollar) (hretain : cfg.retainLoneMagic0 = true) :
    decodeElement cfg [cfg.magic0] = .error .loneMagic0 := by
  simp only [decodeElement, if_neg hm, if_true, hretain]

/-! ## The steps of a FEED -/

theorem run_succ {s t : State} (n : Nat) (h : step s = .next t) : run (n + 1) s = run n t := by
  have hcore : Sys2Proof.core.step s = .next t := h
  simp only [run, Host.Core.run, hcore]
  rfl

theorem step_of_no_turns {s : State} (h : s.turns = []) : step s = framerStep s := by
  simp [step, nextMove, takeFramerTurn, h]

theorem atRest_iff (s : State) : atRest s = true ↔ s.busy = false ∧ s.framer = .idle := by
  simp [atRest]

theorem step_feed {s : State} {chunk : Bytes} {rest : List Turn} (hb : s.busy = false)
    (hturns : s.turns = .request .feedingHost (encode s.cfg (.feed chunk)) :: rest) :
    step s = .next (startFeed chunk (takeTurn s)) := by
  have hreq : decodeRequest (encode s.cfg (.feed chunk)) = .ok (.feed chunk) := rfl
  have hmove : nextMove s = .host (.feed chunk) := by
    simp [nextMove, hturns, hreq, isSecondPath, isHeld, hb]
  simp only [step, hmove, exec_feed_of_idle chunk hb]

theorem framerStep_append {s : State} {chunk : Bytes} (h : s.framer = .append chunk) :
    framerStep s = .next (appendStep chunk s) := by
  simp only [framerStep, framerMove, h]

theorem framerStep_compact {s : State} {pos : Nat} (h : s.framer = .compact pos) :
    framerStep s = .next (compactStep pos s) := by
  simp only [framerStep, framerMove, h]

theorem framerStep_bound {s : State} (h : s.framer = .bound) : framerStep s = .next (boundStep s) := by
  simp only [framerStep, framerMove, h]

/-- Every error of the decoder but a rejected sentence stops the scan (44 R182 to R184). -/
theorem framerStep_stop {s : State} {pos : Nat} {e : ElementError} (h : s.framer = .scan pos)
    (hdec : decodeElement s.cfg (s.buf.drop pos) = .error e) (he : ∀ n, e ≠ .badSentence n) :
    framerStep s = .next (stopScan pos s) := by
  simp only [framerStep, framerMove, h, hdec]
  cases e with
  | badSentence n => exact absurd rfl (he n)
  | exhausted | unterminatedSentence | loneMagic0 | incompleteFrame => rfl

/-- The two steps before the scan: acceptance, then APPEND (log entry 14; 44 R181). -/
theorem run_feed {s : State} {chunk : Bytes} (n : Nat) (hb : s.busy = false)
    (hturns : s.turns = [.request .feedingHost (encode s.cfg (.feed chunk))]) :
    run (n + 2) s = run n (appendStep chunk (startFeed chunk (takeTurn s))) := by
  have hno : (startFeed chunk (takeTurn s)).turns = [] := by simp [hturns]
  calc run (n + 2) s
      = run (n + 1) (startFeed chunk (takeTurn s)) := run_succ _ (step_feed hb hturns)
    _ = run n (appendStep chunk (startFeed chunk (takeTurn s))) :=
      run_succ _ ((step_of_no_turns hno).trans (framerStep_append rfl))

/-- The three steps from where the scan stops: the stop, COMPACT and BOUND (44 R182, R188, R189). -/
theorem run_stop {s : State} {pos : Nat} {e : ElementError} (hturns : s.turns = []) (h : s.framer = .scan pos)
    (hdec : decodeElement s.cfg (s.buf.drop pos) = .error e) (he : ∀ n, e ≠ .badSentence n) :
    run 3 s = .next (boundStep (compactStep pos (stopScan pos s))) :=
  calc run 3 s
      = run 2 (stopScan pos s) := run_succ _ ((step_of_no_turns hturns).trans (framerStep_stop h hdec he))
    _ = run 1 (compactStep pos (stopScan pos s)) :=
      run_succ _ ((step_of_no_turns (s := stopScan pos s) hturns).trans (framerStep_compact rfl))
    _ = run 0 (boundStep (compactStep pos (stopScan pos s))) :=
      run_succ _ ((step_of_no_turns (s := compactStep pos (stopScan pos s)) hturns).trans (framerStep_bound rfl))

/-- A FEED whose scan stops at its first byte comes to BOUND with every byte still in `BUF`. -/
theorem run_feed_of_stop {s : State} {chunk : Bytes} {e : ElementError} (hb : s.busy = false)
    (hturns : s.turns = [.request .feedingHost (encode s.cfg (.feed chunk))])
    (hdec : decodeElement s.cfg (s.buf ++ chunk) = .error e) (he : ∀ n, e ≠ .badSentence n) :
    run 5 s = .next
      (boundStep { s with buf := s.buf ++ chunk, busy := true, framer := .bound, turns := [] }) := by
  rw [run_feed 3 hb hturns, run_stop (pos := 0) (by simp [hturns]) rfl hdec he]
  simp [compactStep, dropBuf, stopScan, appendStep, appendBuf, startFeed, takeTurn, hturns]

/-- Settles O28: each of the three forms stops the scan at its first byte, so BOUND decides over all of `BUF`. -/
theorem unterminatedSentenceStalls : Obligations.UnterminatedSentenceStalls := by
  intro s chunk b hrest hb hpending hturns
  obtain ⟨hbusy, hidle⟩ := (atRest_iff s).mp hrest
  have hstop : ∃ e, decodeElement s.cfg b = .error e ∧ ∀ n, e ≠ .badSentence n := by
    rcases hpending with ⟨rest, hform, hn⟩ | ⟨hcfg, ⟨rest, hform⟩, hshort⟩ | ⟨hcfg, hform, hretain⟩
    · exact ⟨_, hform ▸ decodeElement_unterminated s.cfg hn, by simp⟩
    · exact ⟨_, decodeElement_incompleteFrame (magic0_ne_dollar hcfg) hform hshort, by simp⟩
    · exact ⟨_, hform ▸ decodeElement_loneMagic0 (magic0_ne_dollar hcfg) hretain, by simp⟩
  obtain ⟨e, hdec, he⟩ := hstop
  subst hb
  refine ⟨5, ?_⟩
  rw [run_feed_of_stop hbusy hturns hdec he]
  rcases boundStep_cases { s with buf := s.buf ++ chunk, busy := true, framer := .bound, turns := [] } with
    ⟨hlen, hbound⟩ | ⟨hlen, hbound⟩ <;> rw [hbound]
  · have hkept : (s.buf ++ chunk).length ≤ 2048 := hlen
    simp only [if_pos hkept, hbusy, hidle]
  · have hdiscarded : ¬ (s.buf ++ chunk).length ≤ 2048 := Nat.not_le.mpr hlen
    simp only [if_neg hdiscarded, hbusy, hidle]

end Sys2Proof.Machine
end

section
/-!
PROOFS. Only the framer writes the store (O17): what each case of a host's instruction leaves of `BUF`, `SNAP`, `RATE`,
`OUT` and `DIAG`.
-/

namespace Sys2Proof.Machine

/-- A next state of a host's or outbound instruction is one of the cases of `HostCase`. -/
theorem hostCase_of_exec {i : Instr} {s t : State} (hc : i.channel ≠ .inbound) (h : exec i s = .next t) :
    HostCase i s t := by
  rcases exec_host i s hc with ⟨u, hu, hcase⟩ | ⟨_, _, hrefused⟩
  · obtain rfl := Host.Outcome.next.inj (hu.symm.trans h)
    exact hcase
  · simp [hrefused] at h

/-- The one transaction that writes the store in its own step is RESET (20 R46; 70 R271). -/
theorem HostCase.store_eq {i : Instr} {s t : State} (hi : i ≠ .reset) (h : HostCase i s t) :
    t.buf = s.buf ∧ t.snap = s.snap ∧ t.rate = s.rate ∧ t.out = s.out ∧ t.diag = s.diag := by
  cases h with
  | held _ _ eq => simp [eq]
  | reply _ eq => simp [eq]
  | sent _ eq => simp [eq]
  | started _ _ _ eq => simp [eq]
  | wiped instr _ _ => exact absurd instr hi

/-- Settles O17: a host's instruction but RESET is held, answers, sends a frame or starts the framer; each keeps the
store. -/
theorem hostsNeverWriteTheStore : Obligations.HostsNeverWriteTheStore :=
  fun _ _ _ hc hi h => (hostCase_of_exec hc h).store_eq hi

end Sys2Proof.Machine
end

section
/-!
PROOFS. The decoders and the encoder agree (O1, O2, O4, O5, O6, O55) and the dispatch map of valid frames (O47): the keys
of the map and its rows, then sentences, frames and noise in both directions, then requests and outbound frames.
-/

namespace Sys2Proof.Machine

/-! ## The dispatch map (30 R68; 42 R156 to R158) -/

theorem meetsConstraints_keys {cfg : Config} (hcfg : cfg.meetsConstraints = true) :
    (cfg.grpResp, cfg.subAck) ≠ (cfg.grpResp, cfg.subNak) ∧ (cfg.grpResp, cfg.subAck) ≠ (cfg.grpCfg, cfg.subRateResp)
    ∧ (cfg.grpResp, cfg.subNak) ≠ (cfg.grpCfg, cfg.subRateResp) := by
  simp only [Config.meetsConstraints, Bool.and_eq_true, bne_iff_ne] at hcfg
  obtain ⟨⟨⟨_, ⟨hAckNak, hAckRate⟩, hNakRate⟩, _⟩, _⟩ := hcfg
  exact ⟨hAckNak, hAckRate, hNakRate⟩

/-- The frames that none of the first three rows takes. -/
theorem isUnhandledKey_iff (cfg : Config) (g u : Byte) (n : Nat) :
    isUnhandledKey cfg g u n = true ↔
      ¬ (g = cfg.grpResp ∧ u = cfg.subAck ∧ 2 ≤ n) ∧ ¬ (g = cfg.grpResp ∧ u = cfg.subNak ∧ 2 ≤ n)
      ∧ ¬ (g = cfg.grpCfg ∧ u = cfg.subRateResp ∧ 3 ≤ n) := by
  simp only [isUnhandledKey, Bool.and_eq_true, Bool.not_eq_true', ← Bool.not_eq_true, beq_iff_eq, decide_eq_true_eq,
    and_assoc]

section Rows
variable {cfg : Config}

/-- The row of ACK is the first, so it takes its frames whatever the parameters. -/
theorem dispatch_ack {payload : Bytes} (hlen : 2 ≤ payload.length) :
    dispatchInstr cfg cfg.grpResp cfg.subAck payload = .binAck payload
    ∧ frameEvent cfg cfg.grpResp cfg.subAck payload = .ack (byteAt payload 0) (byteAt payload 1) := by
  simp [dispatchInstr, frameEvent, hlen]

theorem dispatch_nak (hcfg : cfg.meetsConstraints = true) {payload : Bytes} (hlen : 2 ≤ payload.length) :
    dispatchInstr cfg cfg.grpResp cfg.subNak payload = .binNak payload
    ∧ frameEvent cfg cfg.grpResp cfg.subNak payload = .nak (byteAt payload 0) (byteAt payload 1) := by
  obtain ⟨hAckNak, _, _⟩ := meetsConstraints_keys hcfg
  have hne : cfg.subNak ≠ cfg.subAck := fun h => hAckNak (by rw [h])
  simp [dispatchInstr, frameEvent, hlen, hne]

theorem dispatch_rate (hcfg : cfg.meetsConstraints = true) {payload : Bytes} (hlen : 3 ≤ payload.length) :
    dispatchInstr cfg cfg.grpCfg cfg.subRateResp payload = .binRateResp payload
    ∧ frameEvent cfg cfg.grpCfg cfg.subRateResp payload
      = .rate (byteAt payload 0) (byteAt payload 1) (byteAt payload 2) := by
  obtain ⟨_, hAckRate, hNakRate⟩ := meetsConstraints_keys hcfg
  have hack : ¬ (cfg.grpCfg = cfg.grpResp ∧ cfg.subRateResp = cfg.subAck ∧ 2 ≤ payload.length) :=
    fun ⟨hg, hu, _⟩ => hAckRate (by rw [hg, hu])
  have hnak : ¬ (cfg.grpCfg = cfg.grpResp ∧ cfg.subRateResp = cfg.subNak ∧ 2 ≤ payload.length) :=
    fun ⟨hg, hu, _⟩ => hNakRate (by rw [hg, hu])
  simp only [dispatchInstr, frameEvent, if_neg hack, if_neg hnak, hlen, and_self, if_true]

theorem dispatch_unhandled {g u : Byte} {payload : Bytes} (hkey : isUnhandledKey cfg g u payload.length = true) :
    dispatchInstr cfg g u payload = .binUnhandled g u payload
    ∧ frameEvent cfg g u payload = .unhandled g u payload := by
  obtain ⟨hack, hnak, hrate⟩ := (isUnhandledKey_iff cfg g u payload.length).mp hkey
  simp only [dispatchInstr, frameEvent, if_neg hack, if_neg hnak, if_neg hrate, and_self]

/-- The row that takes a valid frame, and the test that it passed. -/
theorem dispatchInstr_cases (cfg : Config) (g u : Byte) (payload : Bytes) :
    ((g = cfg.grpResp ∧ u = cfg.subAck ∧ 2 ≤ payload.length) ∧ dispatchInstr cfg g u payload = .binAck payload)
    ∨ ((g = cfg.grpResp ∧ u = cfg.subNak ∧ 2 ≤ payload.length) ∧ dispatchInstr cfg g u payload = .binNak payload)
    ∨ ((g = cfg.grpCfg ∧ u = cfg.subRateResp ∧ 3 ≤ payload.length)
        ∧ dispatchInstr cfg g u payload = .binRateResp payload)
    ∨ (isUnhandledKey cfg g u payload.length = true ∧ dispatchInstr cfg g u payload = .binUnhandled g u payload) := by
  by_cases hack : g = cfg.grpResp ∧ u = cfg.subAck ∧ 2 ≤ payload.length
  · exact .inl ⟨hack, by rw [dispatchInstr, if_pos hack]⟩
  by_cases hnak : g = cfg.grpResp ∧ u = cfg.subNak ∧ 2 ≤ payload.length
  · exact .inr (.inl ⟨hnak, by rw [dispatchInstr, if_neg hack, if_pos hnak]⟩)
  by_cases hrate : g = cfg.grpCfg ∧ u = cfg.subRateResp ∧ 3 ≤ payload.length
  · exact .inr (.inr (.inl ⟨hrate, by rw [dispatchInstr, if_neg hack, if_neg hnak, if_pos hrate]⟩))
  · have hkey := (isUnhandledKey_iff cfg g u payload.length).mpr ⟨hack, hnak, hrate⟩
    exact .inr (.inr (.inr ⟨hkey, (dispatch_unhandled hkey).1⟩))

end Rows

/-- Settles O47: the three keys are distinct, so each row takes its own frames and the last row the others. -/
theorem dispatchMap : Obligations.DispatchMap := by
  intro cfg x y z more hcfg
  refine ⟨(dispatch_ack (by simp)).2, (dispatch_nak hcfg (by simp)).2, (dispatch_rate hcfg (by simp)).2, ?_⟩
  intro g u payload hresp hrate
  refine (dispatch_unhandled ((isUnhandledKey_iff cfg g u payload.length).mpr ⟨?_, ?_, ?_⟩)).2
  · rintro ⟨rfl, rfl, hlen⟩
    exact hresp.elim (by omega) fun h => h.1 rfl
  · rintro ⟨rfl, rfl, hlen⟩
    exact hresp.elim (by omega) fun h => h.2 rfl
  · rintro ⟨rfl, rfl, hlen⟩
    exact hrate.elim (by omega) fun h => h rfl

/-! ## From an element to its bytes and back (30 R61 to R69) -/

theorem decodeElement_encodeKind (cfg : Config) (k : Kind) {a b : Byte} {data : Bytes} (rest : Bytes)
    (hwf : sentenceWf k a b data = true) :
    decodeElement cfg (encodeKind k a b data ++ rest) = .ok (sentenceInstr k a b data) := by
  rw [← decodeSpan_encodeKind]
  exact decodeSentence_append cfg _ rest hwf

theorem decodeElement_encodeFrame {cfg : Config} (hm : cfg.magic0 ≠ dollar) (g u : Byte) {payload : Bytes} (rest : Bytes)
    (hfits : payloadFits payload = true) :
    decodeElement cfg (encodeFrame cfg g u payload ++ rest) = .ok (dispatchInstr cfg g u payload) := by
  rw [encodeFrame, decodeFrame_append cfg g u payload _ rest (by simpa [payloadFits] using hfits) hm, if_pos rfl]

/-- Settles O1: a sentence decodes by its span, a frame by its checksum and its row of the dispatch map, and any other byte
is noise. -/
theorem inboundDecodeOfEncode : Obligations.InboundDecodeOfEncode := by
  intro cfg i rest hcfg hin hwf hnoise
  have hm := magic0_ne_dollar hcfg
  cases i with
  | nmeaRmc => exact decodeElement_encodeKind cfg .rmc rest hwf
  | nmeaGga => exact decodeElement_encodeKind cfg .gga rest hwf
  | nmeaGll => exact decodeElement_encodeKind cfg .gll rest hwf
  | nmeaGsa => exact decodeElement_encodeKind cfg .gsa rest hwf
  | nmeaGsv => exact decodeElement_encodeKind cfg .gsv rest hwf
  | nmeaVtg => exact decodeElement_encodeKind cfg .vtg rest hwf
  | nmeaGst => exact decodeElement_encodeKind cfg .gst rest hwf
  | nmeaGrs => exact decodeElement_encodeKind cfg .grs rest hwf
  | nmeaZda => exact decodeElement_encodeKind cfg .zda rest hwf
  | nmeaUnknown body =>
    obtain ⟨hcrlf, htag⟩ := Bool.and_eq_true_iff.mp hwf
    rw [encode, decodeSentence_append cfg body rest hcrlf, decodeSpan_unknown body (beq_iff_eq.mp htag)]
  | binAck payload =>
    obtain ⟨hfits, hlen⟩ := Bool.and_eq_true_iff.mp hwf
    rw [encode, decodeElement_encodeFrame hm _ _ rest hfits, (dispatch_ack (of_decide_eq_true hlen)).1]
  | binNak payload =>
    obtain ⟨hfits, hlen⟩ := Bool.and_eq_true_iff.mp hwf
    rw [encode, decodeElement_encodeFrame hm _ _ rest hfits, (dispatch_nak hcfg (of_decide_eq_true hlen)).1]
  | binRateResp payload =>
    obtain ⟨hfits, hlen⟩ := Bool.and_eq_true_iff.mp hwf
    rw [encode, decodeElement_encodeFrame hm _ _ rest hfits, (dispatch_rate hcfg (of_decide_eq_true hlen)).1]
  | binUnhandled g u payload =>
    obtain ⟨hfits, hkey⟩ := Bool.and_eq_true_iff.mp hwf
    rw [encode, decodeElement_encodeFrame hm _ _ rest hfits, (dispatch_unhandled hkey).1]
  | binBadChecksum g u payload ckA ckB =>
    simp only [Instr.wellFormed, payloadFits, Bool.and_eq_true, decide_eq_true_eq, bne_iff_ne] at hwf
    obtain ⟨hfits, hbad⟩ := hwf
    rw [encode, decodeFrame_append cfg g u payload _ rest hfits hm, if_neg hbad]
  | noise b =>
    simp only [Instr.wellFormed, bne_iff_ne] at hwf
    simp only [encode, List.singleton_append, decodeElement, if_neg hwf, if_neg (hnoise b rfl)]
  | setRate | queryRate | feed | latest | getRate | buildSetRate | buildQueryRate | parseFrame | classify | validateNmea
    | parseNmea | xorSum | runSum | bufLen | reset | illegalRequest => simp [Instr.channel] at hin

/-! ## From bytes to the element and back (30 R61 to R69; 44 R185) -/

/-- The bytes start with the encoding of a well-formed inbound element. -/
def StartsWith (cfg : Config) (b : Bytes) (i : Instr) : Prop :=
  (∃ rest, b = encode cfg i ++ rest) ∧ i.channel = .inbound ∧ i.wellFormed cfg = true

theorem startsWith_sentenceInstr {cfg : Config} {k : Kind} {a b : Byte} {data : Bytes} (rest : Bytes)
    (hwf : sentenceWf k a b data = true) :
    StartsWith cfg (encodeKind k a b data ++ rest) (sentenceInstr k a b data) := by
  cases k <;> exact ⟨⟨rest, rfl⟩, rfl, hwf⟩

/-- A span is well formed by its row: with its tag, or as NMEA_UNKNOWN. -/
theorem startsWith_decodeSpan {cfg : Config} {body : Bytes} (rest : Bytes) (hcrlf : noCrLf body = true) :
    StartsWith cfg (encodeSentence body ++ rest) (decodeSpan (encodeSentence body)) := by
  cases htag : kindOfTag (slice body 2 5) with
  | none =>
    rw [decodeSpan_unknown body htag]
    exact ⟨⟨rest, rfl⟩, rfl, by simp [Instr.wellFormed, hcrlf, htag]⟩
  | some k =>
    obtain ⟨a, b, data, rfl⟩ := body_of_kindOfTag htag
    have hspan := decodeSpan_encodeKind k a b data
    rw [encodeKind] at hspan
    rw [hspan]
    exact startsWith_sentenceInstr rest hcrlf

/-- A candidate span ends at the first CR LF, so the body of a validated one holds none. -/
theorem noCrLf_of_span {text body : Bytes} (hfirst : beforeCrLf (text ++ [cr]) = none)
    (hspan : dollar :: (text ++ [cr, lf]) = encodeSentence body) : noCrLf body = true := by
  have htext : text = body ++ star :: hexUpper (xorSum body) := by
    have hcut : text ++ [cr, lf] = (body ++ star :: hexUpper (xorSum body)) ++ [cr, lf] := by
      simpa [encodeSentence] using hspan
    exact List.append_cancel_right hcut
  cases hbody : beforeCrLf body with
  | none => simp [noCrLf, hbody]
  | some t =>
    rw [htext, List.append_assoc, beforeCrLf_append_of_some hbody] at hfirst
    simp at hfirst

theorem startsWith_of_decodeSentence {cfg : Config} {rest : Bytes} {i : Instr} (h : decodeSentence rest = .ok i) :
    StartsWith cfg (dollar :: rest) i := by
  simp only [decodeSentence] at h
  split at h
  · simp at h
  · rename_i text htext
    split at h
    · rename_i hvalid
      obtain rfl := Except.ok.inj h
      obtain ⟨⟨tail, rfl⟩, hfirst⟩ := beforeCrLf_some htext
      obtain ⟨body, hspan⟩ := span_of_validateNmea hvalid
      have hbytes : dollar :: (text ++ cr :: lf :: tail) = encodeSentence body ++ tail := by simp [← hspan]
      rw [hbytes, hspan]
      exact startsWith_decodeSpan tail (noCrLf_of_span hfirst hspan)
    · simp at h

/-- A valid frame is well formed by the row that takes it, the first that matches. -/
theorem startsWith_dispatchInstr {cfg : Config} {g u : Byte} {payload : Bytes} (rest : Bytes)
    (hfits : payload.length ≤ 65535) :
    StartsWith cfg (encodeFrame cfg g u payload ++ rest) (dispatchInstr cfg g u payload) := by
  rcases dispatchInstr_cases cfg g u payload with
    ⟨⟨rfl, rfl, hlen⟩, hrow⟩ | ⟨⟨rfl, rfl, hlen⟩, hrow⟩ | ⟨⟨rfl, rfl, hlen⟩, hrow⟩ | ⟨hkey, hrow⟩ <;> rw [hrow]
  · exact ⟨⟨rest, rfl⟩, rfl, by simp [Instr.wellFormed, payloadFits, hfits, hlen]⟩
  · exact ⟨⟨rest, rfl⟩, rfl, by simp [Instr.wellFormed, payloadFits, hfits, hlen]⟩
  · exact ⟨⟨rest, rfl⟩, rfl, by simp [Instr.wellFormed, payloadFits, hfits, hlen]⟩
  · exact ⟨⟨rest, rfl⟩, rfl, by simp [Instr.wellFormed, payloadFits, hfits, hkey]⟩

theorem startsWith_of_decodeFrame {cfg : Config} {rest : Bytes} {i : Instr}
    (h : decodeFrame cfg (cfg.magic0 :: cfg.magic1 :: rest) = .ok i) :
    StartsWith cfg (cfg.magic0 :: cfg.magic1 :: rest) i := by
  rcases decodeFrame_cases (cfg := cfg) (b := cfg.magic0 :: cfg.magic1 :: rest) rfl rfl with
    ⟨_, hdec⟩ | ⟨g, u, payload, ck, tail, hbytes, hfits, hdec⟩
  · simp [hdec] at h
  · rw [hdec] at h
    rw [hbytes]
    split at h
    · rename_i hck
      obtain rfl := Except.ok.inj h
      rw [hck]
      exact startsWith_dispatchInstr tail hfits
    · rename_i hck
      obtain rfl := Except.ok.inj h
      exact ⟨⟨tail, rfl⟩, rfl, by simp [Instr.wellFormed, payloadFits, hfits, hck]⟩

theorem startsWith_noise {cfg : Config} {x : Byte} (rest : Bytes) (hx : x ≠ dollar) :
    StartsWith cfg (x :: rest) (.noise x) :=
  ⟨⟨rest, rfl⟩, rfl, bne_iff_ne.mpr hx⟩

/-- Settles O2: along the tests of the decoder, a sentence, a frame or a noise byte. -/
theorem inboundEncodeOfDecode : Obligations.InboundEncodeOfDecode := by
  intro cfg b i h
  show StartsWith cfg b i
  cases b with
  | nil => simp [decodeElement] at h
  | cons x rest =>
    simp only [decodeElement] at h
    by_cases hdollar : x = dollar
    · subst hdollar
      rw [if_pos rfl] at h
      exact startsWith_of_decodeSentence h
    rw [if_neg hdollar] at h
    by_cases hmagic : x = cfg.magic0
    · subst hmagic
      rw [if_pos rfl] at h
      cases rest with
      | nil =>
        cases hretain : cfg.retainLoneMagic0 with
        | true => simp [hretain] at h
        | false =>
          simp only [hretain, Bool.false_eq_true, if_false] at h
          obtain rfl := Except.ok.inj h
          exact startsWith_noise _ hdollar
      | cons y ys =>
        by_cases hframe : y = cfg.magic1
        · subst hframe
          simp only [if_true] at h
          exact startsWith_of_decodeFrame h
        · simp only [if_neg hframe] at h
          obtain rfl := Except.ok.inj h
          exact startsWith_noise _ hdollar
    · rw [if_neg hmagic] at h
      obtain rfl := Except.ok.inj h
      exact startsWith_noise _ hdollar

/-! ## Requests (30 R73, R74) -/

/-- No row of the op table takes an op code outside 1 to 13. -/
theorem decodeRequest_illegal {op : Byte} (args : Bytes) (hop : op = 0 ∨ 14 ≤ op.toNat) :
    decodeRequest (op :: args) = .ok (.illegalRequest op args) := by
  have hrange : op.toNat = 0 ∨ 14 ≤ op.toNat := hop.imp_left fun h => by rw [h]; rfl
  simp only [decodeRequest]
  split
  case h_14 => rfl
  all_goals omega

/-- Settles O4: a defined op code is decoded as the row that encodes it, and an undefined one as ILLEGAL_REQUEST. -/
theorem requestDecodeOfEncode : Obligations.RequestDecodeOfEncode := by
  intro cfg i hhost hwf
  cases i with
  | illegalRequest op args =>
    simp only [Instr.wellFormed, Bool.or_eq_true, beq_iff_eq, decide_eq_true_eq] at hwf
    exact decodeRequest_illegal args hwf
  | feed | latest | getRate | buildSetRate | buildQueryRate | parseFrame | classify | validateNmea | parseNmea | xorSum
    | runSum | bufLen | reset => rfl
  | nmeaRmc | nmeaGga | nmeaGll | nmeaGsa | nmeaGsv | nmeaVtg | nmeaGst | nmeaGrs | nmeaZda | nmeaUnknown | binAck
    | binNak | binRateResp | binUnhandled | binBadChecksum | noise | setRate | queryRate => simp [Instr.channel] at hhost

/-- Settles O55: the answer is a response alone, with the error of code 8. -/
theorem illegalRequestResponds : Obligations.IllegalRequestResponds :=
  fun _ _ args hop => ⟨decodeRequest_illegal args hop, rfl, rfl⟩

/-! ## Outbound frames (30 R71, R72; 60 R249, R258) -/

theorem setRateFrame_eq (cfg : Config) (tg ts rate : Byte) :
    setRateFrame cfg tg ts rate
      = [cfg.magic0, cfg.magic1, cfg.grpCfg, cfg.subRateSet, 0x03, 0x00, tg, ts, rate,
        (runSum [cfg.grpCfg, cfg.subRateSet, 0x03, 0x00, tg, ts, rate]).1,
        (runSum [cfg.grpCfg, cfg.subRateSet, 0x03, 0x00, tg, ts, rate]).2] := rfl

theorem queryRateFrame_eq (cfg : Config) (tg ts : Byte) :
    queryRateFrame cfg tg ts
      = [cfg.magic0, cfg.magic1, cfg.grpCfg, cfg.subRateQuery, 0x02, 0x00, tg, ts,
        (runSum [cfg.grpCfg, cfg.subRateQuery, 0x02, 0x00, tg, ts]).1,
        (runSum [cfg.grpCfg, cfg.subRateQuery, 0x02, 0x00, tg, ts]).2] := rfl

/-- The encoder writes the builder's frames. -/
theorem encode_setRate (cfg : Config) (tg ts rate : Byte) :
    encode cfg (.setRate tg ts rate) = setRateFrame cfg tg ts rate := by
  simp [setRateFrame_eq, encode, encodeFrame, encodeFrameWith, frameContents, lengthBytes]

theorem encode_queryRate (cfg : Config) (tg ts : Byte) : encode cfg (.queryRate tg ts) = queryRateFrame cfg tg ts := by
  simp [queryRateFrame_eq, encode, encodeFrame, encodeFrameWith, frameContents, lengthBytes]

theorem decodeOutbound_setRate (cfg : Config) (tg ts rate : Byte) :
    decodeOutbound cfg (encode cfg (.setRate tg ts rate))
      = if targetValid cfg tg ts = true then .ok (.setRate tg ts rate) else .error .notBuilderOutput := by
  simp [encode_setRate, setRateFrame_eq, decodeOutbound]

theorem decodeOutbound_queryRate (cfg : Config) (tg ts : Byte) :
    decodeOutbound cfg (encode cfg (.queryRate tg ts))
      = if targetValid cfg tg ts = true then .ok (.queryRate tg ts) else .error .notBuilderOutput := by
  simp [encode_queryRate, queryRateFrame_eq, decodeOutbound]

/-- Settles O5: the two templates differ in length, and each is read back where the target is accepted. -/
theorem outboundDecodeOfEncode : Obligations.OutboundDecodeOfEncode := by
  intro cfg tg ts rate
  rw [decodeOutbound_setRate, decodeOutbound_queryRate]
  refine ⟨fun hvalid => ?_, fun hrefused => ?_⟩
  · simp only [hvalid, if_true, and_self]
  · simp only [hrefused, Bool.false_eq_true, if_false, and_self]

/-- Settles O6: each word is decoded by evaluation. -/
theorem specWordsDecode : Obligations.SpecWordsDecode :=
  ⟨by decide, by decide, by decide, by decide, by decide, by decide⟩

end Sys2Proof.Machine
end

section
/-!
PROOFS. The step on a host's request (O7), the builder's frames at the sink and in the responses (O39, O40), and LATEST
(O44).
-/

namespace Sys2Proof.Machine

/-! ## A request at the head of the turns (45 R217, R218, R229; 60 R258; 70 R271) -/

theorem isSecondPath_iff (agent : Agent) (i : Instr) :
    isSecondPath agent i = true ↔ (∃ chunk, i = .feed chunk) ∧ agent ≠ .feedingHost := by
  cases i <;> simp [isSecondPath]

section Request
variable {s : State} {agent : Agent} {req : Bytes} {rest : List Turn} {i : Instr}

theorem step_of_request (hturns : s.turns = .request agent req :: rest) (hreq : decodeRequest req = .ok i)
    (hpath : ¬ isSecondPath agent i = true) (hheld : ¬ isHeld i s = true) : step s = exec i s := by
  have hmove : nextMove s = .host i := by simp only [nextMove, hturns, hreq, if_neg hpath, if_neg hheld]
  simp only [step, hmove]

theorem step_of_secondPath (hturns : s.turns = .request agent req :: rest) (hreq : decodeRequest req = .ok i)
    (hpath : isSecondPath agent i = true) : step s = .refused .secondFeedingPath := by
  have hmove : nextMove s = .refuse .secondFeedingPath := by simp only [nextMove, hturns, hreq, if_pos hpath]
  simp only [step, hmove]

end Request

/-- Settles O7: the step asks for a second path first and for a held request next, and then runs the request. -/
theorem stepRunsRequest : Obligations.StepRunsRequest := by
  intro s agent req rest i hturns hreq
  refine ⟨fun hagent hfree => step_of_request hturns hreq ?_ ?_, fun hfeed hagent => ?_⟩
  · rw [isSecondPath_iff]
    exact fun ⟨hfeed, hne⟩ => hne (hagent hfeed)
  · rw [isHeld_iff]
    rintro ⟨hbusy, hwaits⟩
    rcases hfree with hidle | ⟨hfeed, hbufLen, hreset⟩
    · simp [hidle] at hbusy
    · rcases hwaits with ⟨chunk, hi⟩ | hi | hi
      · exact hfeed chunk hi
      · exact hbufLen hi
      · exact hreset hi
  · exact step_of_secondPath hturns hreq ((isSecondPath_iff agent i).mpr ⟨hfeed, hagent⟩)

/-! ## The builder (43 R170, R171) -/

theorem buildSetRate_of_valid {cfg : Config} {tg ts : Byte} (rate : Byte) (h : targetValid cfg tg ts = true) :
    buildSetRate cfg tg ts rate = .ok (setRateFrame cfg tg ts rate) := by
  simp only [buildSetRate, h, if_true]

theorem buildQueryRate_of_valid {cfg : Config} {tg ts : Byte} (h : targetValid cfg tg ts = true) :
    buildQueryRate cfg tg ts = .ok (queryRateFrame cfg tg ts) := by
  simp only [buildQueryRate, h, if_true]

/-- Settles O39: the frames that the builder makes are the templates, byte for byte. -/
theorem outboundFramesAreSent : Obligations.OutboundFramesAreSent := by
  intro s tg ts rate hvalid
  refine ⟨?_, ?_⟩
  · simp only [exec, execSetRate, buildSetRate_of_valid rate hvalid, setRateFrame_eq]
    rfl
  · simp only [exec, execQueryRate, buildQueryRate_of_valid hvalid, queryRateFrame_eq]
    rfl

/-- Settles O40: the builder answers with the same frames. -/
theorem buildersRespondWithFrames : Obligations.BuildersRespondWithFrames := by
  intro s tg ts rate hvalid
  refine ⟨?_, ?_⟩
  · simp only [exec, execBuildSetRate, buildSetRate_of_valid rate hvalid, setRateFrame_eq]
    rfl
  · simp only [exec, execBuildQueryRate, buildQueryRate_of_valid hvalid, queryRateFrame_eq]
    rfl

/-! ## LATEST (45 R212, R219; 30 R69, R74) -/

/-- A kind code names the result it stands for, `Unknown` among them. -/
theorem kindOfCode_kindCode (k : Option Kind) : kindOfCode (kindCode k) = some k := by
  rcases k with _ | k
  · decide
  · cases k <;> decide

theorem kindOfCode_of_gt {code : Byte} (h : 9 < code.toNat) : kindOfCode code = none := by
  have hgt : ¬ code ≤ 9 := by
    rw [BitVec.le_def]
    simpa using h
  rw [kindOfCode, if_neg hgt]

theorem exec_latest_kindCode (k : Option Kind) (s : State) :
    exec (.latest (kindCode k)) s = .next (respond (.record (latestOf k s)) s) := by
  simp only [exec, execLatest, kindOfCode_kindCode]

theorem exec_latest_illegal {code : Byte} (h : 9 < code.toNat) (s : State) :
    exec (.latest code) s = .next (respondError (.illegalRequest 0x02) .empty s) := by
  simp only [exec, execLatest, kindOfCode_of_gt h]

/-- Settles O44: the table lists, for every result, its code and its slot. -/
theorem latestResponds : Obligations.LatestResponds := by
  intro s
  refine ⟨?_, fun code hcode => exec_latest_illegal hcode s⟩
  show ∀ p ∈ (allKinds.map some ++ [none]).map fun k => (kindCode k, latestOf k s), _
  exact List.forall_mem_map.mpr fun k _ => exec_latest_kindCode k s

end Sys2Proof.Machine
end

section
/-!
PROOFS. The checksum engines: XorSum of a concatenation (O56), the closed form of RunSum (O57), the hex digits (O58).
-/

namespace Sys2Proof.Machine

/-! ## XorSum (40 R100) -/

theorem xorSumFrom_append (c : Byte) (a b : Bytes) : xorSumFrom c (a ++ b) = xorSumFrom (xorSumFrom c a) b := by
  induction a generalizing c with
  | nil => rfl
  | cons x xs ih => exact ih (c ^^^ x)

/-- Settles O56: the loop runs over the second part from the sum of the first, and an accumulator comes out by XOR. -/
theorem xorSumOfAppend : Obligations.XorSumOfAppend := by
  intro b c x
  refine ⟨rfl, BitVec.zero_xor, ?_⟩
  calc xorSum (b ++ c) = xorSumFrom (xorSum b) c := xorSumFrom_append 0 b c
    _ = xorSum b ^^^ xorSum c := xorSumFrom_eq (xorSum b) c

/-! ## RunSum (40 R102) -/

/-- The sum of the bytes, without the reduction to 8 bits. -/
def byteTotal (b : Bytes) : Nat := (b.map BitVec.toNat).sum

/-- The sum of the bytes, each as often as `chk1` is added to `chk2` from it on, without the reduction to 8 bits. -/
def weightedTotal (b : Bytes) : Nat :=
  ((List.range b.length).map fun i => (b.length - i) * (byteAt b i).toNat).sum

theorem byteTotal_cons (x : Byte) (b : Bytes) : byteTotal (x :: b) = x.toNat + byteTotal b := by
  simp only [byteTotal, List.map_cons, List.sum_cons]

/-- The weight of a byte counts it and those after it, so a byte put in front leaves the other weights as they are. -/
theorem weightedTotal_cons (x : Byte) (b : Bytes) :
    weightedTotal (x :: b) = (b.length + 1) * x.toNat + weightedTotal b := by
  simp only [weightedTotal, List.length_cons, List.range_succ_eq_map, List.map_cons, List.sum_cons, List.map_map,
    Function.comp_def, byteAt_zero_cons, byteAt_succ_cons, Nat.sub_zero, Nat.succ_eq_add_one, Nat.add_sub_add_right]

/-- From any accumulators: `chk1` gains every byte, and `chk2` gains at each byte the `chk1` reached there. -/
theorem runSumFrom_toNat (c1 c2 : Byte) (b : Bytes) :
    (runSumFrom c1 c2 b).1.toNat = (c1.toNat + byteTotal b) % 256
    ∧ (runSumFrom c1 c2 b).2.toNat = (c2.toNat + b.length * c1.toNat + weightedTotal b) % 256 := by
  induction b generalizing c1 c2 with
  | nil => simp [runSumFrom, byteTotal, weightedTotal, Nat.mod_eq_of_lt c1.isLt, Nat.mod_eq_of_lt c2.isLt]
  | cons x xs ih =>
    obtain ⟨ih1, ih2⟩ := ih (c1 + x) (c2 + (c1 + x))
    refine ⟨?_, ?_⟩
    · rw [runSumFrom, ih1, byteTotal_cons, BitVec.toNat_add, Nat.mod_add_mod, Nat.add_assoc]
    · rw [runSumFrom, ih2, weightedTotal_cons, List.length_cons]
      have hchk1 : (c1 + x).toNat ≡ c1.toNat + x.toNat [MOD 256] := by
        rw [BitVec.toNat_add]
        exact Nat.mod_modEq _ _
      have hchk2 : (c2 + (c1 + x)).toNat ≡ c2.toNat + (c1.toNat + x.toNat) [MOD 256] := by
        rw [BitVec.toNat_add]
        exact (Nat.mod_modEq _ _).trans (hchk1.add_left _)
      calc (c2 + (c1 + x)).toNat + xs.length * (c1 + x).toNat + weightedTotal xs
          ≡ c2.toNat + (c1.toNat + x.toNat) + xs.length * (c1.toNat + x.toNat) + weightedTotal xs [MOD 256] :=
            (hchk2.add (hchk1.mul_left _)).add_right _
        _ = c2.toNat + (xs.length + 1) * c1.toNat + ((xs.length + 1) * x.toNat + weightedTotal xs) := by ring

/-- Settles O57: the loop from accumulators 0. -/
theorem runSumClosedForm : Obligations.RunSumClosedForm := by
  intro b
  simpa [runSum, byteTotal, weightedTotal] using runSumFrom_toNat 0 0 b

/-! ## HexUpper (40 R101) -/

/-- The digit of each of the 16 nibbles. -/
theorem hexDigit_eq (v : BitVec 4) :
    hexDigit v = if v.toNat ≤ 9 then BitVec.ofNat 8 (0x30 + v.toNat) else BitVec.ofNat 8 (0x41 + (v.toNat - 10)) := by
  revert v
  decide

theorem highNibble_toNat (c : Byte) : (c.extractLsb' 4 4).toNat = c.toNat / 16 := by
  have := c.isLt
  rw [BitVec.extractLsb'_toNat, Nat.shiftRight_eq_div_pow]
  omega

theorem lowNibble_toNat (c : Byte) : (c.extractLsb' 0 4).toNat = c.toNat % 16 := by
  rw [BitVec.extractLsb'_toNat, Nat.shiftRight_zero]

/-- Settles O58: the two digits are those of the quotient and the remainder by 16. -/
theorem hexUpperDigits : Obligations.HexUpperDigits := by
  intro c
  simp only [hexUpper, hexDigit_eq, highNibble_toNat, lowNibble_toNat, List.map_cons, List.map_nil]

end Sys2Proof.Machine
end

section
/-!
PROOFS. What the builder makes, ParseFrame accepts (O42): a frame at the front of bytes parses by its checksum, and the
dispatch map gives its event.
-/

namespace Sys2Proof.Machine

/-- A complete frame at the front parses whole, whatever follows: by its checksum, and then by the dispatch map
(42 R155 to R159). -/
theorem parseFrame_append (cfg : Config) (g u : Byte) {payload : Bytes} (ck : Byte × Byte) (rest : Bytes)
    (h : payload.length ≤ 65535) :
    parseFrame cfg (encodeFrameWith cfg g u payload ck ++ rest)
      = if ck = runSum (frameContents g u payload)
        then ⟨frameLength payload.length, .ok, some (frameEvent cfg g u payload)⟩
        else ⟨frameLength payload.length, .checksumMismatch, none⟩ := by
  obtain ⟨hlen, hn, hg, hu, hpayload, hck1, hck2, hcontents⟩ := frame_parts cfg g u payload ck rest h
  have h0 : byteAt (encodeFrameWith cfg g u payload ck ++ rest) 0 = cfg.magic0 := rfl
  have h1 : byteAt (encodeFrameWith cfg g u payload ck ++ rest) 1 = cfg.magic1 := rfl
  have hmin : 8 ≤ frameLength payload.length := Nat.le_add_right 8 _
  simp only [parseFrame, h0, h1, hn, hg, hu, hpayload, hck1, hck2, hcontents, hlen]
  rw [if_neg (by omega), if_neg (by simp), if_neg (by omega), if_neg (by simp), if_neg (by omega), if_neg (by omega)]
  simp only [ne_eq, ← not_and_or, ← Prod.ext_iff, ite_not]

/-- A frame with its own checksum is accepted whole, with the event of its key and payload. -/
theorem parseFrame_encodeFrame (cfg : Config) (g u : Byte) {payload : Bytes} (h : payload.length ≤ 65535) :
    parseFrame cfg (encodeFrame cfg g u payload)
      = ⟨frameLength payload.length, .ok, some (frameEvent cfg g u payload)⟩ := by
  have hparse := parseFrame_append cfg g u (runSum (frameContents g u payload)) [] h
  rwa [List.append_nil, if_pos rfl] at hparse

theorem parseFrame_setRateFrame (cfg : Config) (tg ts rate : Byte) :
    parseFrame cfg (setRateFrame cfg tg ts rate)
      = ⟨11, .ok, some (frameEvent cfg cfg.grpCfg cfg.subRateSet [tg, ts, rate])⟩ := by
  rw [← encode_setRate]
  exact parseFrame_encodeFrame cfg _ _ (by simp)

theorem parseFrame_queryRateFrame (cfg : Config) (tg ts : Byte) :
    parseFrame cfg (queryRateFrame cfg tg ts)
      = ⟨10, .ok, some (frameEvent cfg cfg.grpCfg cfg.subRateQuery [tg, ts])⟩ := by
  rw [← encode_queryRate]
  exact parseFrame_encodeFrame cfg _ _ (by simp)

/-- Under a valid configuration the query-rate frame is in the last row of the dispatch map: its key is not that of ACK or
NAK, and its payload is too short for a rate report (43 R171). -/
theorem isUnhandledKey_query {cfg : Config} (hcfg : cfg.valid = true) :
    isUnhandledKey cfg cfg.grpCfg cfg.subRateQuery 2 = true := by
  simp only [Config.valid, Config.queryKeyIsOwn, Bool.and_eq_true, bne_iff_ne] at hcfg
  obtain ⟨_, hack, hnak⟩ := hcfg
  refine (isUnhandledKey_iff ..).mpr ⟨?_, ?_, ?_⟩
  · exact fun ⟨hg, hu, _⟩ => hack (by rw [hg, hu])
  · exact fun ⟨hg, hu, _⟩ => hnak (by rw [hg, hu])
  · exact fun ⟨_, _, hlen⟩ => absurd hlen (by decide)

/-- Settles O42: both frames are encodings with their own checksum, so ParseFrame answers with the event that the dispatch
map gives their key. -/
theorem builtFramesParse : Obligations.BuiltFramesParse := by
  intro cfg tg ts rate
  rw [parseFrame_setRateFrame, parseFrame_queryRateFrame]
  refine ⟨rfl, rfl, rfl, rfl, fun hvalid => ?_, fun _ hkey => ?_, fun hcfg hkey => ?_⟩
  · exact congrArg some (dispatch_unhandled (isUnhandledKey_query hvalid)).2
  · obtain ⟨hg, hu⟩ := Prod.mk.inj hkey
    rw [hg, hu]
    exact congrArg some (dispatch_ack (payload := [tg, ts]) (by simp)).2
  · obtain ⟨hg, hu⟩ := Prod.mk.inj hkey
    rw [hg, hu]
    exact congrArg some (dispatch_nak hcfg (payload := [tg, ts]) (by simp)).2

end Sys2Proof.Machine
end

section
/-!
PROOFS. A sentence body and its record (O59): the split at commas, the field mapping position by position, and the record
or the FIELD_OVERFLOW that a body gives.
-/

namespace Sys2Proof.Machine

/-! ## The comma split (41 R124) -/

theorem splitCommas_comma_cons (b : Bytes) : splitCommas (comma :: b) = [] :: splitCommas b := rfl

/-- A byte that is no comma goes to the front of the first field. -/
theorem splitCommas_cons_cases {x : Byte} (hx : x ≠ comma) (b : Bytes) :
    ∃ f fs, splitCommas b = f :: fs ∧ splitCommas (x :: b) = (x :: f) :: fs := by
  obtain ⟨f, fs, hb⟩ := List.exists_cons_of_ne_nil (splitCommas_ne_nil b)
  exact ⟨f, fs, hb, splitCommas_cons_of_ne hx hb⟩

theorem length_splitCommas (body : Bytes) : (splitCommas body).length = body.count comma + 1 := by
  induction body with
  | nil => rfl
  | cons x b ih =>
    by_cases hx : x = comma
    · rw [hx, splitCommas_comma_cons, List.length_cons, ih, List.count_cons_self]
    · obtain ⟨f, fs, hb, hxb⟩ := splitCommas_cons_cases hx b
      rw [hxb, List.count_cons_of_ne hx, ← ih, hb, List.length_cons, List.length_cons]

theorem comma_not_mem_splitCommas (body : Bytes) : ∀ f ∈ splitCommas body, comma ∉ f := by
  induction body with
  | nil => simp [splitCommas]
  | cons x b ih =>
    by_cases hx : x = comma
    · rw [hx, splitCommas_comma_cons]
      exact List.forall_mem_cons.mpr ⟨List.not_mem_nil, ih⟩
    · obtain ⟨f, fs, hb, hxb⟩ := splitCommas_cons_cases hx b
      rw [hb, List.forall_mem_cons] at ih
      obtain ⟨hf, hfs⟩ := ih
      rw [hxb, List.forall_mem_cons]
      exact ⟨List.not_mem_cons_of_ne_of_not_mem (Ne.symm hx) hf, hfs⟩

theorem intercalate_splitCommas (body : Bytes) : [comma].intercalate (splitCommas body) = body := by
  induction body with
  | nil => rfl
  | cons x b ih =>
    by_cases hx : x = comma
    · rw [hx, splitCommas_comma_cons, List.intercalate_cons_of_ne_nil (splitCommas_ne_nil b), ih]
      rfl
    · obtain ⟨f, fs, hb, hxb⟩ := splitCommas_cons_cases hx b
      rw [hb] at ih
      rw [hxb, ← ih]
      cases fs with
      | nil => simp only [List.intercalate_singleton]
      | cons g gs => simp only [List.intercalate_cons_cons, List.cons_append]

/-- Settles O59: the three clauses are inductions over the body, with a case for a comma and one for any other byte. -/
theorem splitAtCommas : Obligations.SplitAtCommas := fun body =>
  ⟨length_splitCommas body, comma_not_mem_splitCommas body, intercalate_splitCommas body⟩

/-- Bytes without a comma at the front of a body lengthen its first field. -/
theorem splitCommas_append {f b g : Bytes} {fs : List Bytes} (hf : comma ∉ f) (hb : splitCommas b = g :: fs) :
    splitCommas (f ++ b) = (f ++ g) :: fs := by
  induction f with
  | nil => exact hb
  | cons x f ih =>
    exact splitCommas_cons_of_ne (List.ne_of_not_mem_cons hf).symm (ih (List.not_mem_of_not_mem_cons hf))

/-- The split of an address field and data fields, each introduced by a comma, gives them back (30 R63). -/
theorem splitCommas_fields {f : Bytes} {values : List Bytes} (hf : comma ∉ f) (hvalues : ∀ v ∈ values, comma ∉ v) :
    splitCommas (f ++ values.flatMap (comma :: ·)) = f :: values := by
  induction values generalizing f with
  | nil => simpa using splitCommas_append hf (show splitCommas [] = [[]] from rfl)
  | cons v vs ih =>
    obtain ⟨hv, hvs⟩ := List.forall_mem_cons.mp hvalues
    have htail : splitCommas (comma :: (v ++ vs.flatMap (comma :: ·))) = [] :: v :: vs := by
      rw [splitCommas_comma_cons, ih hv hvs]
    simpa using splitCommas_append hf htail

theorem comma_not_mem_kindTag (k : Kind) : comma ∉ kindTag k := by cases k <;> decide

theorem splitCommas_kindBody (k : Kind) {a b : Byte} {values : List Bytes} (ha : a ≠ comma) (hb : b ≠ comma)
    (hvalues : ∀ v ∈ values, comma ∉ v) :
    splitCommas (kindBody k a b (values.flatMap (comma :: ·))) = (a :: b :: kindTag k) :: values := by
  have haddress : comma ∉ a :: b :: kindTag k :=
    List.not_mem_cons_of_ne_of_not_mem ha.symm
      (List.not_mem_cons_of_ne_of_not_mem hb.symm (comma_not_mem_kindTag k))
  exact splitCommas_fields haddress hvalues

/-! ## The field mapping (41 R126 to R128) -/

/-- What a position with maximum `m` stores of its data field: `None` for a missing or an empty one, else its bytes, cut
at `m`. -/
def cutField (m : Nat) (d : Option Bytes) : Option Bytes := (d.filter fun v => v != []).map (·.take m)

/-- There is a data field for the position at index `j`, and it is longer than the position's maximum. -/
def TooLong (maxima : List Nat) (data : List Bytes) (j : Nat) : Prop :=
  ∃ m d, maxima[j]? = some m ∧ data[j]? = some d ∧ m < d.length

theorem cutField_of_fits {m : Nat} {d : Option Bytes} (h : ∀ v, d = some v → v.length ≤ m) :
    cutField m d = d.filter fun v => v != [] := by
  cases d with
  | none => rfl
  | some v =>
    have hv : v.take m = v := List.take_of_length_le (h v rfl)
    by_cases he : v = [] <;> simp [cutField, Option.filter, he, hv]

theorem tooLong_cons_succ (m : Nat) (maxima : List Nat) (data : List Bytes) (j : Nat) :
    TooLong (m :: maxima) data (j + 1) ↔ TooLong maxima data.tail j := by
  simp only [TooLong, List.getElem?_cons_succ, List.getElem?_tail]

section Mapping
variable {policy : FieldPolicy} {k : Kind} {i m : Nat} {maxima : List Nat} {data : List Bytes}

/-- A position whose field is accepted takes that field, and the mapping goes on behind it. -/
theorem mapFields_cons_of_accepted (h : policy = .truncate ∨ ¬ TooLong (m :: maxima) data 0) :
    mapFields policy k i (m :: maxima) data
      = (mapFields policy k (i + 1) maxima data.tail).map (cutField m data[0]? :: ·) := by
  cases data with
  | nil => rfl
  | cons d ds =>
    by_cases hempty : d = []
    · subst hempty
      rfl
    have hlen : d.length ≠ 0 := fun h0 => hempty (List.length_eq_zero_iff.mp h0)
    have hcut : cutField m (d :: ds)[0]? = some (d.take m) := by simp [cutField, hempty]
    rw [hcut, List.tail_cons]
    simp only [mapFields, if_neg hlen]
    by_cases hlong : m < d.length
    · obtain rfl : policy = .truncate := h.resolve_right (not_not_intro ⟨m, d, rfl, rfl, hlong⟩)
      rw [if_pos hlong]
    · rw [if_neg hlong, List.take_of_length_le (Nat.le_of_not_lt hlong)]

/-- Under policy Reject a field that is too long ends the mapping. -/
theorem mapFields_cons_of_tooLong (h : TooLong (m :: maxima) data 0) :
    mapFields .reject k i (m :: maxima) data = .error (.fieldOverflow k i) := by
  obtain ⟨m', d, hm, hd, hlong⟩ := h
  obtain rfl : m = m' := by simpa using hm
  cases data with
  | nil => simp at hd
  | cons d' ds =>
    obtain rfl : d' = d := by simpa using hd
    rw [mapFields, if_neg (by omega), if_pos hlong]

theorem mapFields_of_accepted (h : policy = .truncate ∨ ∀ j, ¬ TooLong maxima data j) :
    mapFields policy k i maxima data = .ok (maxima.mapIdx fun j m => cutField m data[j]?) := by
  induction maxima generalizing i data with
  | nil => rfl
  | cons m ms ih =>
    have htail : policy = .truncate ∨ ∀ j, ¬ TooLong ms data.tail j :=
      h.imp_right fun hfit j => (tooLong_cons_succ m ms data j).not.mp (hfit (j + 1))
    rw [mapFields_cons_of_accepted (h.imp_right fun hfit => hfit 0), ih htail, List.mapIdx_cons]
    simp only [Except.map, List.getElem?_tail]

/-- Under policy Reject the error names the smallest position whose field is too long. -/
theorem mapFields_of_tooLong {j : Nat} (hlong : TooLong maxima data j) (hfirst : ∀ l, l < j → ¬ TooLong maxima data l) :
    mapFields .reject k i maxima data = .error (.fieldOverflow k (i + j)) := by
  induction j generalizing i maxima data with
  | zero =>
    cases maxima with
    | nil => simp [TooLong] at hlong
    | cons m ms => exact mapFields_cons_of_tooLong hlong
  | succ j ih =>
    cases maxima with
    | nil => simp [TooLong] at hlong
    | cons m ms =>
      have hrest := ih (i := i + 1) ((tooLong_cons_succ m ms data j).mp hlong) fun l hl =>
        (tooLong_cons_succ m ms data l).not.mp (hfirst (l + 1) (Nat.succ_lt_succ hl))
      rw [mapFields_cons_of_accepted (.inr (hfirst 0 j.succ_pos)), hrest, Nat.add_right_comm, Nat.add_assoc]
      rfl

end Mapping

/-! ## The record of a body (41 R125 to R128; 60 R248) -/

/-- The positions of 41 R126 count from 1, and element 0 of the split is the address field. -/
theorem overlong_succ_iff {cfg : Config} {k : Kind} {body : Bytes} {j : Nat} (hj : j < fieldCount cfg k) :
    overlong cfg k body (j + 1) ↔ TooLong (fieldMaxima cfg k) (splitCommas body).tail j := by
  have hmax : (fieldMaxima cfg k)[j]? = some (fieldMax cfg k (j + 1)) := by
    rw [fieldMax, Nat.add_sub_cancel, List.getD_eq_getElem _ _ hj, List.getElem?_eq_getElem hj]
  simp only [overlong, TooLong, hmax, List.getElem?_tail, Option.some.injEq, exists_and_left, exists_eq_left']

theorem not_tooLong_of_ge {cfg : Config} {k : Kind} {data : List Bytes} {j : Nat} (hj : fieldCount cfg k ≤ j) :
    ¬ TooLong (fieldMaxima cfg k) data j := by
  rintro ⟨m, d, hm, -, -⟩
  rw [List.getElem?_eq_none hj] at hm
  cases hm

theorem storedField_succ (cfg : Config) (k : Kind) (fields : List Bytes) (j : Nat) :
    storedField cfg k fields (j + 1) = cutField (fieldMax cfg k (j + 1)) fields.tail[j]? := by
  rw [List.getElem?_tail, storedField]
  cases fields[j + 1]? with
  | none => rfl
  | some d => by_cases hd : d = [] <;> simp [cutField, Option.filter, hd]

theorem mapIdx_cutField (cfg : Config) (k : Kind) (body : Bytes) :
    ((fieldMaxima cfg k).mapIdx fun j m => cutField m (splitCommas body).tail[j]?) = storedFields cfg k body := by
  refine List.ext_getElem (by simp [storedFields, fieldCount]) fun j hj hj' => ?_
  rw [List.length_mapIdx] at hj
  simp only [storedFields, List.getElem_mapIdx, List.getElem_map, List.getElem_range, storedField_succ]
  rw [fieldMax, Nat.add_sub_cancel, List.getD_eq_getElem _ _ hj]

/-- A body whose fields are accepted gives its record. -/
theorem buildRecord_of_accepted {cfg : Config} {k : Kind} {body : Bytes} (talker : Byte × Byte)
    (h : fieldsAccepted cfg k body) :
    buildRecord cfg k talker body = .ok ⟨k, talker, storedFields cfg k body⟩ := by
  have hfit : cfg.fieldPolicy = .truncate ∨ ∀ j, ¬ TooLong (fieldMaxima cfg k) (splitCommas body).tail j := by
    refine h.imp_right fun hnone j => ?_
    rcases Nat.lt_or_ge j (fieldCount cfg k) with hj | hj
    · exact (overlong_succ_iff hj).not.mp (hnone (j + 1) (by omega) hj)
    · exact not_tooLong_of_ge hj
  rw [buildRecord, mapFields_of_accepted hfit, mapIdx_cutField]
  rfl

/-- Under policy Reject a body with an overlong field gives FIELD_OVERFLOW at the smallest such position. -/
theorem buildRecord_of_overlong {cfg : Config} {k : Kind} {body : Bytes} {i : Nat} (talker : Byte × Byte)
    (hpolicy : cfg.fieldPolicy = .reject) (hpos : 1 ≤ i) (hcount : i ≤ fieldCount cfg k)
    (hlong : overlong cfg k body i) (hfirst : ∀ j, 1 ≤ j → j < i → ¬ overlong cfg k body j) :
    buildRecord cfg k talker body = .error (.fieldOverflow k i) := by
  obtain ⟨j, rfl⟩ := Nat.exists_eq_add_of_le' hpos
  have hfit : ∀ l, l < j → ¬ TooLong (fieldMaxima cfg k) (splitCommas body).tail l := fun l hl =>
    (overlong_succ_iff (by omega)).not.mp (hfirst (l + 1) (by omega) (by omega))
  rw [buildRecord, hpolicy, mapFields_of_tooLong ((overlong_succ_iff hcount).mp hlong) hfit, Nat.add_comm 1 j]
  rfl

end Sys2Proof.Machine
end

section
/-!
PROOFS. Sentences and the transactions on them: a sentence without a slot at the framer (O30), CLASSIFY (O49), PARSE_NMEA
(O51), the named fields (O52).
-/

namespace Sys2Proof.Machine

/-! ## The sentence rows (44 R183, R186) -/

theorem exec_sentenceInstr (k : Kind) (a b : Byte) (data : Bytes) (s : State) :
    exec (sentenceInstr k a b data) s
      = .next (routeSentence (buildRecord s.cfg k (a, b) (kindBody k a b data)) (data.length + 11) s) := by
  cases k <;> rfl

/-- A sentence whose fields are accepted changes its kind's slot, the events and the cursor. -/
theorem exec_sentenceInstr_of_accepted {k : Kind} {a b : Byte} {data : Bytes} {s : State}
    (h : fieldsAccepted s.cfg k (kindBody k a b data)) :
    exec (sentenceInstr k a b data) s = .next { s with
      snap := s.snap.set k ⟨k, (a, b), storedFields s.cfg k (kindBody k a b data)⟩
      out := s.out ++ [.nmea ⟨k, (a, b), storedFields s.cfg k (kindBody k a b data)⟩]
      framer := advanceFramer (data.length + 11) s.framer } := by
  rw [exec_sentenceInstr, buildRecord_of_accepted (a, b) h, routeSentence, acceptRecord_eq]
  rfl

/-- Settles O30: of all that an accepted sentence changes, the slot is no change for a kind without one. -/
theorem slotlessSentenceIsEmitted : Obligations.SlotlessSentenceIsEmitted := by
  intro s k a b data hslot haccepted
  obtain ⟨_, _, hkeep⟩ := Snapshots.set_spec s.snap k ⟨k, (a, b), storedFields s.cfg k (kindBody k a b data)⟩
  rw [exec_sentenceInstr_of_accepted haccepted, hkeep hslot]

/-! ## CLASSIFY (30 R69; 41 R120; 45 R224) -/

theorem kindOfTag_eq_some_iff (tag : Bytes) (k : Kind) : kindOfTag tag = some k ↔ tag = kindTag k :=
  ⟨kindOfTag_some, fun h => h ▸ kindOfTag_kindTag k⟩

theorem classify_eq_some_iff (text : Bytes) (k : Kind) :
    classify text = some k ↔ 6 ≤ text.length ∧ byteAt text 0 = dollar ∧ slice text 3 6 = kindTag k := by
  rw [classify]
  split
  · next hshort =>
    refine iff_of_false (by simp) fun ⟨hlen, hdollar, _⟩ => ?_
    exact hshort.elim (Nat.not_lt.mpr hlen) (· hdollar)
  · next hlong =>
    obtain ⟨hlen, hdollar⟩ := not_or.mp hlong
    rw [kindOfTag_eq_some_iff]
    exact ⟨fun htag => ⟨Nat.le_of_not_lt hlen, not_not.mp hdollar, htag⟩, fun ⟨_, _, htag⟩ => htag⟩

theorem kindCode_inj {j k : Option Kind} : kindCode j = kindCode k ↔ j = k := by
  refine ⟨fun h => Option.some.inj ?_, congrArg kindCode⟩
  rw [← kindOfCode_kindCode j, h, kindOfCode_kindCode k]

theorem kindCode_le (k : Option Kind) : (kindCode k).toNat ≤ 9 := by
  rcases k with _ | k
  · decide
  · cases k <;> decide

/-- Settles O49: the rows are the nine kinds with their codes and tags, and codes are distinct. -/
theorem classifyResponds : Obligations.ClassifyResponds := by
  intro s text
  refine ⟨kindCode (classify text), rfl, ?_, kindCode_le _⟩
  show ∀ row ∈ allKinds.map fun k => (kindCode (some k), kindTag k), _
  exact List.forall_mem_map.mpr fun k _ => kindCode_inj.trans (classify_eq_some_iff text k)

/-! ## PARSE_NMEA (41 R122, R132; 45 R226) -/

theorem hexUpper_ne_crLf (c : Byte) : hexUpper c ≠ [cr, lf] := by
  revert c
  decide

/-- A sentence without its CR LF does not end in another one: it ends in two hex digits. -/
theorem stripCrLf_of_encodeSentence {text body : Bytes} (h : text ++ [cr, lf] = encodeSentence body) :
    stripCrLf text = text := by
  have htext : text = (dollar :: (body ++ [star])) ++ hexUpper (xorSum body) := by
    apply List.append_cancel_right (bs := [cr, lf])
    rw [h]
    simp [encodeSentence]
  rcases stripCrLf_eq_or text with hsame | ⟨t, hcrlf, _⟩
  · exact hsame
  · exact absurd (List.append_inj_right' (htext.symm.trans hcrlf) rfl) (hexUpper_ne_crLf _)

/-- The trailing CR LF of a sentence is no part of what ParseNmea reads. -/
theorem parseNmea_append_crLf (cfg : Config) {text body : Bytes} (h : text ++ [cr, lf] = encodeSentence body)
    (hlen : 6 ≤ text.length) : parseNmea cfg (text ++ [cr, lf]) = parseNmea cfg text := by
  have hstrip := stripCrLf_of_encodeSentence h
  have hvalid : validateNmea (text ++ [cr, lf]) = true := h ▸ validateNmea_encodeSentence body
  have hvalid' : validateNmea text = true := by
    rwa [validateNmea_iff, stripCrLf_append, ← hstrip, ← validateNmea_iff] at hvalid
  have hclass : classify (text ++ [cr, lf]) = classify text := by
    ext k
    simp only [classify_eq_some_iff, byteAt_append_left text _ 0 (by omega), slice_append_left text _ 3 6 hlen,
      List.length_append, hlen, Nat.le_add_right_of_le hlen]
  have htag : tagInfo (text ++ [cr, lf]) = tagInfo text := by
    simp only [tagInfo, List.length_append, Nat.min_eq_left hlen, Nat.min_eq_left (Nat.le_add_right_of_le hlen),
      slice_append_left text _ 3 6 hlen]
  simp only [parseNmea, hvalid, hvalid', hclass, htag, stripCrLf_append, hstrip, Bool.true_eq_false, if_false]

theorem parseNmea_of_kind (cfg : Config) {k : Kind} {a b : Byte} {data text : Bytes}
    (h : text = encodeKind k a b data ∨ text ++ [cr, lf] = encodeKind k a b data) :
    parseNmea cfg text = buildRecord cfg k (a, b) (kindBody k a b data) := by
  rcases h with rfl | hcrlf
  · exact parseNmea_encodeKind cfg k a b data
  · have hlen : text.length = 3 + data.length + 6 := by
      simpa [encodeKind, sentenceLength] using congrArg List.length hcrlf
    rw [← parseNmea_append_crLf cfg hcrlf (by omega), hcrlf]
    exact parseNmea_encodeKind cfg k a b data

theorem exec_parseNmea_ok {s : State} {text : Bytes} {r : Record} (h : parseNmea s.cfg text = .ok r) :
    exec (.parseNmea text) s = .next (respond (.record (some r)) s) := by
  simp only [exec, execParseNmea, h]

theorem exec_parseNmea_error {s : State} {text : Bytes} {e : ErrorRecord} (h : parseNmea s.cfg text = .error e) :
    exec (.parseNmea text) s = .next (respondError e (.record none) s) := by
  simp only [exec, execParseNmea, h]

/-- Settles O51: the answer is that of ParseNmea, whose order of checks gives the first two clauses and whose record of a
body gives the others. -/
theorem parseNmeaResponds : Obligations.ParseNmeaResponds := by
  intro s text
  refine ⟨fun hbad => ?_, fun hvalid hnone => ?_, fun k a b data htext => ⟨fun haccepted => ?_, ?_⟩⟩
  · exact exec_parseNmea_error (by rw [parseNmea, if_pos hbad])
  · exact exec_parseNmea_error (e := .unrecognizedKind (tagInfo text)) (by simp only [parseNmea, hvalid, hnone]; rfl)
  · exact exec_parseNmea_ok ((parseNmea_of_kind s.cfg htext).trans (buildRecord_of_accepted (a, b) haccepted))
  · intro i hpolicy hpos hcount hlong hfirst
    exact exec_parseNmea_error
      ((parseNmea_of_kind s.cfg htext).trans (buildRecord_of_overlong (a, b) hpolicy hpos hcount hlong hfirst))

/-! ## The named fields (41 R126, R127, R129, R130) -/

theorem fieldCount_of_meetsConstraints {cfg : Config} (hcfg : cfg.meetsConstraints = true) :
    9 ≤ fieldCount cfg .rmc ∧ 11 ≤ fieldCount cfg .gga := by
  simp only [Config.meetsConstraints, Bool.and_eq_true, decide_eq_true_eq] at hcfg
  obtain ⟨⟨_, hcount⟩, _⟩ := hcfg
  exact hcount

theorem rmcPosition_bounds (f : RmcField) : 1 ≤ rmcPosition f ∧ rmcPosition f ≤ 9 := by cases f <;> decide

theorem ggaPosition_bounds (f : GgaField) : 1 ≤ ggaPosition f ∧ ggaPosition f ≤ 11 := by cases f <;> decide

section Values
variable {cfg : Config} {k : Kind} {a b : Byte} {values : List Bytes}

/-- Data fields within their maxima give a record that holds each of them at its position. -/
theorem parseNmea_values (ha : a ≠ comma) (hb : b ≠ comma) (hvalues : ∀ v ∈ values, comma ∉ v)
    (hfit : ∀ (i : Nat) (v : Bytes), i < fieldCount cfg k → values[i]? = some v → v.length ≤ fieldMax cfg k (i + 1)) :
    ∃ r, parseNmea cfg (encodeKind k a b (values.flatMap (comma :: ·))) = .ok r ∧ r.talker = (a, b)
      ∧ ∀ p, 1 ≤ p ∧ p ≤ fieldCount cfg k → fieldAt r p = (values[p - 1]?).filter fun v => v != [] := by
  have hsplit := splitCommas_kindBody k ha hb hvalues
  have haccepted : fieldsAccepted cfg k (kindBody k a b (values.flatMap (comma :: ·))) := by
    refine .inr fun i hpos hcount ⟨d, hd, hlong⟩ => ?_
    obtain ⟨j, rfl⟩ := Nat.exists_eq_add_of_le' hpos
    rw [hsplit, List.getElem?_cons_succ] at hd
    exact Nat.not_lt.mpr (hfit j d hcount hd) hlong
  refine ⟨_, (parseNmea_of_kind cfg (.inl rfl)).trans (buildRecord_of_accepted (a, b) haccepted), rfl, ?_⟩
  rintro p ⟨hpos, hcount⟩
  obtain ⟨j, rfl⟩ := Nat.exists_eq_add_of_le' hpos
  have hfield : fieldAt ⟨k, (a, b), storedFields cfg k (kindBody k a b (values.flatMap (comma :: ·)))⟩ (j + 1)
      = cutField (fieldMax cfg k (j + 1)) values[j]? := by
    have hlt : j < fieldCount cfg k := hcount
    simp only [fieldAt, storedFields, hsplit]
    simp [storedField_succ, hlt]
  rw [hfield, Nat.add_sub_cancel]
  exact cutField_of_fits fun v => hfit j v hcount

end Values

/-- Settles O52: the record holds each value at its position, and every named position is stored (00 R8). -/
theorem namedFieldsAreFound : Obligations.NamedFieldsAreFound := by
  intro cfg a b values hcfg ha hb hvalues hfit
  obtain ⟨hrmc, hgga⟩ := fieldCount_of_meetsConstraints hcfg
  refine ⟨rfl, rfl, ?_, ?_⟩
  · obtain ⟨r, hparse, htalker, hfields⟩ := parseNmea_values ha hb hvalues fun i v => hfit .rmc i v (.inl rfl)
    refine ⟨r, hparse, htalker, fun f => hfields (rmcPosition f) ?_⟩
    exact (rmcPosition_bounds f).imp_right fun hle => hle.trans hrmc
  · obtain ⟨r, hparse, htalker, hfields⟩ := parseNmea_values ha hb hvalues fun i v => hfit .gga i v (.inr rfl)
    refine ⟨r, hparse, htalker, fun f => hfields (ggaPosition f) ?_⟩
    exact (ggaPosition_bounds f).imp_right fun hle => hle.trans hgga

end Sys2Proof.Machine
end

section
/-!
PROOFS. Binary frames: PARSE_FRAME (O46), ParseFrame's consumed length (O48), and the frame rows of the framer that emit
an event and store nothing (O34, O36).
-/

namespace Sys2Proof.Machine

/-! ## ParseFrame by its front bytes (42 R151 to R155) -/

/-- A front byte is there and is not its magic byte (42 R152). -/
def BadMagic (cfg : Config) (b : Bytes) : Prop :=
  (b ≠ [] ∧ byteAt b 0 ≠ cfg.magic0) ∨ (2 ≤ b.length ∧ byteAt b 1 ≠ cfg.magic1)

theorem badMagic_or_lone_or_magic (cfg : Config) (b : Bytes) :
    BadMagic cfg b ∨ (b = [] ∨ b = [cfg.magic0])
      ∨ (2 ≤ b.length ∧ byteAt b 0 = cfg.magic0 ∧ byteAt b 1 = cfg.magic1) := by
  rcases b with _ | ⟨x, _ | ⟨y, rest⟩⟩
  · exact .inr (.inl (.inl rfl))
  · by_cases hx : x = cfg.magic0
    · exact .inr (.inl (.inr (by rw [hx])))
    · exact .inl (.inl ⟨List.cons_ne_nil _ _, hx⟩)
  · by_cases hx : x = cfg.magic0
    · by_cases hy : y = cfg.magic1
      · exact .inr (.inr ⟨by simp, hx, hy⟩)
      · exact .inl (.inr ⟨by simp, hy⟩)
    · exact .inl (.inl ⟨List.cons_ne_nil _ _, hx⟩)

theorem BadMagic.ne_nil {cfg : Config} {b : Bytes} (h : BadMagic cfg b) : b ≠ [] := by
  rcases h with ⟨hne, _⟩ | ⟨h2, _⟩
  · exact hne
  · exact List.ne_nil_of_length_pos (by omega)

theorem parseFrame_of_badMagic {cfg : Config} {b : Bytes} (h : BadMagic cfg b) :
    parseFrame cfg b = ⟨1, .badMagic, none⟩ := by
  have hlen : b.length ≠ 0 := mt List.eq_nil_of_length_eq_zero h.ne_nil
  rw [parseFrame, if_neg hlen]
  by_cases h0 : byteAt b 0 ≠ cfg.magic0
  · rw [if_pos h0]
  · obtain ⟨h2, h1⟩ := h.resolve_left fun ⟨_, h0'⟩ => h0 h0'
    rw [if_neg h0, if_neg (by omega), if_pos h1]

theorem parseFrame_of_lone {cfg : Config} {b : Bytes} (h : b = [] ∨ b = [cfg.magic0]) :
    parseFrame cfg b = ⟨0, .incomplete, none⟩ := by
  rcases h with rfl | rfl
  · rfl
  · simp [parseFrame]

/-- Bytes too short for the length they declare hold no complete frame, so ParseFrame waits (42 R153, R154). -/
theorem parseFrame_of_short {cfg : Config} {b : Bytes} (h2 : 2 ≤ b.length) (h0 : byteAt b 0 = cfg.magic0)
    (h1 : byteAt b 1 = cfg.magic1) (hshort : b.length < 6 ∨ b.length < frameLength (payloadLength b)) :
    parseFrame cfg b = ⟨0, .incomplete, none⟩ := by
  rcases parseFrame_of_magic h2 h0 h1 with ⟨_, hparse⟩ | ⟨g, u, payload, ck, rest, rfl, hle, _⟩
  · exact hparse
  · obtain ⟨hlen, hn, _⟩ := frame_parts cfg g u payload ck rest hle
    simp only [hlen, hn, frameLength] at hshort
    omega

/-- Settles O46: the front bytes decide the first three clauses, and a complete frame parses by its checksum. -/
theorem parseFrameResponds : Obligations.ParseFrameResponds := by
  intro s b
  refine ⟨parseFrame s.cfg b, rfl, parseFrame_of_badMagic, parseFrame_of_lone, fun h2 h0 h1 hshort => ?_, ?_⟩
  · rw [Nat.add_assoc, ← payloadLength_eq] at hshort
    exact parseFrame_of_short h2 h0 h1 hshort
  · rintro g u payload ck rest rfl hle
    exact parseFrame_append s.cfg g u ck rest hle

/-! ## The consumed length (42 R160) -/

/-- All that ParseFrame can answer, with what the bytes then hold at least. -/
theorem parseFrame_cases (cfg : Config) (b : Bytes) :
    (1 ≤ b.length ∧ parseFrame cfg b = ⟨1, .badMagic, none⟩)
    ∨ parseFrame cfg b = ⟨0, .incomplete, none⟩
    ∨ (frameLength (payloadLength b) ≤ b.length
        ∧ ((∃ e, parseFrame cfg b = ⟨frameLength (payloadLength b), .ok, some e⟩)
          ∨ parseFrame cfg b = ⟨frameLength (payloadLength b), .checksumMismatch, none⟩)) := by
  rcases badMagic_or_lone_or_magic cfg b with hbad | hlone | ⟨h2, h0, h1⟩
  · exact .inl ⟨List.length_pos_of_ne_nil hbad.ne_nil, parseFrame_of_badMagic hbad⟩
  · exact .inr (.inl (parseFrame_of_lone hlone))
  · rcases parseFrame_of_magic h2 h0 h1 with ⟨_, hparse⟩ | ⟨g, u, payload, ck, rest, rfl, hle, hparse⟩
    · exact .inr (.inl hparse)
    · obtain ⟨hlen, hn, _⟩ := frame_parts cfg g u payload ck rest hle
      rw [hn, hlen, hparse]
      refine .inr (.inr ⟨Nat.le_add_right _ _, ?_⟩)
      split
      · exact .inl ⟨_, rfl⟩
      · exact .inr rfl

/-- Settles O48: each answer of ParseFrame carries its length. -/
theorem consumedLength : Obligations.ConsumedLength := by
  intro cfg b
  rw [Nat.add_assoc, ← payloadLength_eq, ← frameLength]
  have hpos : frameLength (payloadLength b) ≠ 0 := by simp [frameLength]
  rcases parseFrame_cases cfg b with ⟨hlen, hparse⟩ | hparse | ⟨hlen, ⟨e, hparse⟩ | hparse⟩ <;> rw [hparse]
  · exact ⟨by simp, fun _ => rfl, by simp, hlen⟩
  · exact ⟨by simp, by simp, by simp, Nat.zero_le _⟩
  · exact ⟨by simp [hpos], by simp, fun _ => rfl, hlen⟩
  · exact ⟨by simp [hpos], by simp, fun _ => rfl, hlen⟩

/-! ## Frames that are emitted and not stored (42 R156 to R158, 44 R187) -/

theorem acceptFrame_eq (e : Event) (n : Nat) (s : State) :
    acceptFrame e n s = { routeEvent e s with framer := advanceFramer (n + 8) s.framer } := by
  rw [acceptFrame, advance, routeEvent_framer, frameLength, Nat.add_comm]

/-- Settles O34: of an accepted frame whose event is no rate report, only the event and the cursor are written. -/
theorem ackAndNakAreEmitted : Obligations.AckAndNakAreEmitted := by
  intro s tg ts more
  refine ⟨?_, ?_⟩
  · exact congrArg Host.Outcome.next (acceptFrame_eq (.ack tg ts) (more.length + 2) s)
  · exact congrArg Host.Outcome.next (acceptFrame_eq (.nak tg ts) (more.length + 2) s)

theorem exec_ackNak_of_short (s : State) {payload : Bytes} (h : payload.length < 2) :
    exec (.binAck payload) s = exec (.binUnhandled s.cfg.grpResp s.cfg.subAck payload) s
    ∧ exec (.binNak payload) s = exec (.binUnhandled s.cfg.grpResp s.cfg.subNak payload) s := by
  match payload, h with
  | [], _ => exact ⟨rfl, rfl⟩
  | [_], _ => exact ⟨rfl, rfl⟩

theorem exec_rateResp_of_short (s : State) {payload : Bytes} (h : payload.length < 3) :
    exec (.binRateResp payload) s = exec (.binUnhandled s.cfg.grpCfg s.cfg.subRateResp payload) s := by
  match payload, h with
  | [], _ => rfl
  | [_], _ => rfl
  | [_, _], _ => rfl

/-- Settles O36: the event holds the whole frame, and a named row with too few payload bytes takes the same branch. -/
theorem unhandledFrameIsEmitted : Obligations.UnhandledFrameIsEmitted := by
  intro s g u payload
  refine ⟨?_, exec_ackNak_of_short s, exec_rateResp_of_short s⟩
  exact congrArg Host.Outcome.next (acceptFrame_eq (.unhandled g u payload) payload.length s)

end Sys2Proof.Machine
end

section
/-!
PROOFS. The step on bytes written to the sink (O9), and what a refused target leads to (O41).
-/

namespace Sys2Proof.Machine

/-! ## Bytes for the sink at the head of the turns (60 R258) -/

section Transmit
variable {s : State} {frame : Bytes} {rest : List Turn}

theorem step_of_transmit {i : Instr} (hturns : s.turns = .transmit frame :: rest)
    (hframe : decodeOutbound s.cfg frame = .ok i) : step s = exec i s := by
  have hmove : nextMove s = .host i := by simp only [nextMove, hturns, hframe]
  simp only [step, hmove]

theorem step_of_no_builder_output {e : OutboundError} (hturns : s.turns = .transmit frame :: rest)
    (hframe : decodeOutbound s.cfg frame = .error e) : step s = .refused .notBuilderOutput := by
  have hmove : nextMove s = .refuse .notBuilderOutput := by simp only [nextMove, hturns, hframe]
  simp only [step, hmove]

end Transmit

/-- Settles O9: the bytes at the head of the turns are read by the sink's decoder, and its answer decides the step. -/
theorem stepRunsOutboundFrame : Obligations.StepRunsOutboundFrame :=
  fun _ _ _ hturns => ⟨fun _ => step_of_transmit hturns, fun _ => step_of_no_builder_output hturns⟩

/-! ## The builder on a refused target (43 R170 to R172, 60 R249) -/

theorem buildSetRate_of_invalid {cfg : Config} {tg ts : Byte} (rate : Byte) (h : targetValid cfg tg ts = false) :
    buildSetRate cfg tg ts rate = .error (.invalidTarget tg ts) := by
  simp only [buildSetRate, h, Bool.false_eq_true, if_false]

theorem buildQueryRate_of_invalid {cfg : Config} {tg ts : Byte} (h : targetValid cfg tg ts = false) :
    buildQueryRate cfg tg ts = .error (.invalidTarget tg ts) := by
  simp only [buildQueryRate, h, Bool.false_eq_true, if_false]

/-- An outbound row whose target the builder refuses has no frame (log entry 6). -/
theorem exec_outbound_refused {i : Instr} {s : State} (hchannel : i.channel = .outbound)
    (hwf : i.wellFormed s.cfg = false) : exec i s = .refused .notBuilderOutput := by
  rcases exec_outbound i s hchannel with ⟨hwf', _⟩ | ⟨_, hrefused⟩
  · exact absurd hwf' (by simp [hwf])
  · exact hrefused

/-- Settles O41: the builder's error is the response of a build transaction, and leaves the sink without a frame. -/
theorem invalidTargetIsReported : Obligations.InvalidTargetIsReported := by
  intro s i tg ts rate hinvalid
  refine ⟨?_, ?_⟩
  · rintro (rfl | rfl)
    · simp only [exec, execBuildSetRate, buildSetRate_of_invalid rate hinvalid]
      rfl
    · simp only [exec, execBuildQueryRate, buildQueryRate_of_invalid hinvalid]
      rfl
  · rintro (rfl | rfl)
    · exact exec_outbound_refused rfl hinvalid
    · exact exec_outbound_refused rfl hinvalid

end Sys2Proof.Machine
end

section
/-!
PROOFS. The SCAN step as one function of the bytes at the cursor (44 R182 to R187): how far the cursor moves and what
the element leaves in the store. With it the step is the spec's pseudocode (O19) and moves the cursor forward (O23).
-/

namespace Sys2Proof.Machine

/-! ## What an element leaves in the store (44 R185 to R187) -/

/-- What the store gets of one scanned element. -/
inductive Deposit where
  /-- A noise byte leaves nothing. -/
  | nothing
  /-- An accepted sentence. -/
  | record (r : Record)
  /-- A frame with a valid checksum. -/
  | frame (e : Event)
  /-- A rejected sentence or frame. -/
  | logged (e : ErrorRecord)

/-- A ParseNmea result, routed (44 R186). -/
def sentenceDeposit : Except ErrorRecord Record → Deposit
  | .ok r => .record r
  | .error e => .logged e

/-- The deposit, put into the store by the model's own routing. -/
def deposit (w : Deposit) (s : State) : State :=
  match w with
  | .nothing => s
  | .record r => acceptRecord r s
  | .frame e => routeEvent e s
  | .logged e => logDiag e s

@[simp] theorem deposit_cfg (w : Deposit) (s : State) : (deposit w s).cfg = s.cfg := by
  cases w with
  | nothing | logged => rfl
  | record r => simp only [deposit, acceptRecord_eq]
  | frame e => simp only [deposit, routeEvent_eq]

@[simp] theorem deposit_buf (w : Deposit) (s : State) : (deposit w s).buf = s.buf := by
  cases w with
  | nothing | logged => rfl
  | record r => exact acceptRecord_buf r s
  | frame e => exact routeEvent_buf e s

@[simp] theorem deposit_framer (w : Deposit) (s : State) : (deposit w s).framer = s.framer := by
  cases w with
  | nothing | logged => rfl
  | record r => exact acceptRecord_framer r s
  | frame e => exact routeEvent_framer e s

theorem routeSentence_eq (r : Except ErrorRecord Record) (n : Nat) (s : State) :
    routeSentence r n s = advance n (deposit (sentenceDeposit r) s) := by
  cases r <;> rfl

/-! ## The element at the front of bytes (44 R182 to R185) -/

/-- A candidate sentence whose `'$'` has been read: the span ends at the first CR LF; without one the scan stops. -/
def sentenceFront (cfg : Config) (rest : Bytes) : Option (Nat × Deposit) :=
  (beforeCrLf rest).map fun text =>
    (text.length + 3, sentenceDeposit (parseNmea cfg (dollar :: (text ++ [cr, lf]))))

/-- Bytes that start with both magic bytes: a whole frame is accepted or logged; for less the scan stops. -/
def frameFront (cfg : Config) (b : Bytes) : Option (Nat × Deposit) :=
  match parseFrame cfg b with
  | ⟨n, .ok, some e⟩ => some (n, .frame e)
  | ⟨n, .checksumMismatch, _⟩ => some (n, .logged (.checksumMismatch .bin n))
  | _ => none

/-- The bytes that the element at the front of `b` takes, and its deposit; `none` where the scan stops. -/
def scanFront (cfg : Config) (b : Bytes) : Option (Nat × Deposit) :=
  match b with
  | [] => none
  | x :: rest =>
    if x = dollar then sentenceFront cfg rest
    else if x = cfg.magic0 ∧ rest = [] ∧ cfg.retainLoneMagic0 = true then none
    else if x = cfg.magic0 ∧ rest.head? = some cfg.magic1 then frameFront cfg b
    else some (1, .nothing)

section Front
variable {cfg : Config} {x : Byte} {rest b : Bytes}

theorem scanFront_dollar (cfg : Config) (rest : Bytes) :
    scanFront cfg (dollar :: rest) = sentenceFront cfg rest := by
  simp only [scanFront, if_true]

theorem scanFront_frame (hm : cfg.magic0 ≠ dollar) (rest : Bytes) :
    scanFront cfg (cfg.magic0 :: cfg.magic1 :: rest) = frameFront cfg (cfg.magic0 :: cfg.magic1 :: rest) := by
  simp only [scanFront, if_neg hm, List.cons_ne_nil, List.head?_cons, false_and, and_false, and_self, if_false, if_true]

theorem scanFront_noise (hd : x ≠ dollar) (hframe : x = cfg.magic0 → rest.head? ≠ some cfg.magic1)
    (hlone : x = cfg.magic0 → rest = [] → cfg.retainLoneMagic0 = false) :
    scanFront cfg (x :: rest) = some (1, .nothing) := by
  have hnotLone : ¬ (x = cfg.magic0 ∧ rest = [] ∧ cfg.retainLoneMagic0 = true) :=
    fun ⟨hx, hr, hretain⟩ => by simp [hlone hx hr] at hretain
  have hnotFrame : ¬ (x = cfg.magic0 ∧ rest.head? = some cfg.magic1) := fun ⟨hx, hy⟩ => hframe hx hy
  simp only [scanFront, if_neg hd, if_neg hnotLone, if_neg hnotFrame]

/-- A whole frame at the front, whatever follows it. -/
theorem frameFront_append (cfg : Config) (g u : Byte) {payload : Bytes} (ck : Byte × Byte) (rest : Bytes)
    (hfits : payload.length ≤ 65535) :
    frameFront cfg (encodeFrameWith cfg g u payload ck ++ rest) = some (frameLength payload.length,
      if ck = runSum (frameContents g u payload) then .frame (frameEvent cfg g u payload)
      else .logged (.checksumMismatch .bin (frameLength payload.length))) := by
  by_cases hck : ck = runSum (frameContents g u payload)
  · simp only [frameFront, parseFrame_append cfg g u ck rest hfits, if_pos hck]
  · simp only [frameFront, parseFrame_append cfg g u ck rest hfits, if_neg hck]

theorem frameFront_of_short (h2 : 2 ≤ b.length) (h0 : byteAt b 0 = cfg.magic0) (h1 : byteAt b 1 = cfg.magic1)
    (hshort : b.length < 6 ∨ b.length < frameLength (payloadLength b)) : frameFront cfg b = none := by
  simp only [frameFront, parseFrame_of_short h2 h0 h1 hshort]

/-- All that bytes can be for which the element at their front is taken. -/
inductive FrontCase (cfg : Config) (n : Nat) (w : Deposit) : Bytes → Prop where
  | sentence (text rest : Bytes) (first : beforeCrLf (text ++ [cr]) = none) (length : n = text.length + 3)
      (left : w = sentenceDeposit (parseNmea cfg (dollar :: (text ++ [cr, lf])))) :
      FrontCase cfg n w (dollar :: (text ++ cr :: lf :: rest))
  | frame (g u : Byte) (payload : Bytes) (ck : Byte × Byte) (rest : Bytes) (magic : cfg.magic0 ≠ dollar)
      (fits : payload.length ≤ 65535) (length : n = frameLength payload.length)
      (left : w = if ck = runSum (frameContents g u payload) then .frame (frameEvent cfg g u payload)
        else .logged (.checksumMismatch .bin (frameLength payload.length))) :
      FrontCase cfg n w (encodeFrameWith cfg g u payload ck ++ rest)
  | noise (x : Byte) (rest : Bytes) (ne : x ≠ dollar) (notFrame : x = cfg.magic0 → rest.head? ≠ some cfg.magic1)
      (notLone : x = cfg.magic0 → rest = [] → cfg.retainLoneMagic0 = false) (length : n = 1) (left : w = .nothing) :
      FrontCase cfg n w (x :: rest)

theorem frontCase_of_scanFront {n : Nat} {w : Deposit} (h : scanFront cfg b = some (n, w)) :
    FrontCase cfg n w b := by
  cases b with
  | nil => simp [scanFront] at h
  | cons x rest =>
    simp only [scanFront] at h
    by_cases hd : x = dollar
    · subst hd
      rw [if_pos rfl, sentenceFront, Option.map_eq_some_iff] at h
      obtain ⟨text, htext, hnw⟩ := h
      obtain ⟨hn, hw⟩ := Prod.mk.inj hnw
      obtain ⟨⟨tail, rfl⟩, hfirst⟩ := beforeCrLf_some htext
      exact .sentence text tail hfirst hn.symm hw.symm
    rw [if_neg hd] at h
    by_cases hlone : x = cfg.magic0 ∧ rest = [] ∧ cfg.retainLoneMagic0 = true
    · simp [if_pos hlone] at h
    rw [if_neg hlone] at h
    by_cases hframe : x = cfg.magic0 ∧ rest.head? = some cfg.magic1
    · rw [if_pos hframe] at h
      obtain ⟨rfl, hhead⟩ := hframe
      obtain ⟨tail, rfl⟩ := List.head?_eq_some_iff.mp hhead
      rcases parseFrame_of_magic (cfg := cfg) (b := cfg.magic0 :: cfg.magic1 :: tail) (by simp) rfl rfl with
        ⟨hshort, _⟩ | ⟨g, u, payload, ck, tail', hbytes, hfits, _⟩
      · simp [frameFront_of_short (cfg := cfg) (b := cfg.magic0 :: cfg.magic1 :: tail) (by simp) rfl rfl hshort] at h
      · rw [hbytes, frameFront_append cfg g u ck tail' hfits] at h
        obtain ⟨hn, hw⟩ := Prod.mk.inj (Option.some.inj h)
        rw [hbytes]
        exact .frame g u payload ck tail' hd hfits hn.symm hw.symm
    · rw [if_neg hframe] at h
      obtain ⟨hn, hw⟩ := Prod.mk.inj (Option.some.inj h)
      refine .noise x rest hd (fun hx hhead => hframe ⟨hx, hhead⟩) (fun hx hr => ?_) hn.symm hw.symm
      simpa using fun hretain => hlone ⟨hx, hr, hretain⟩

/-- The element at the front takes at least one byte, and no byte that is not there (44 R191). -/
theorem FrontCase.bounds {n : Nat} {w : Deposit} (h : FrontCase cfg n w b) : 1 ≤ n ∧ n ≤ b.length := by
  cases h with
  | sentence text rest _ length _ =>
    simp only [length, List.length_cons, List.length_append]
    omega
  | frame g u payload ck rest _ _ length _ =>
    rw [List.length_append, length_frame, length, frameLength]
    omega
  | noise x rest _ _ _ length _ => simp [length]

/-- Where a lone `MAGIC0` is retained, later bytes never change what the element at the front is (44 R192). -/
theorem scanFront_append {n : Nat} {w : Deposit} (hretain : cfg.retainLoneMagic0 = true)
    (h : scanFront cfg b = some (n, w)) (c : Bytes) : scanFront cfg (b ++ c) = some (n, w) := by
  cases frontCase_of_scanFront h with
  | sentence text rest first length left =>
    have hbytes : dollar :: (text ++ cr :: lf :: rest) ++ c = dollar :: (text ++ cr :: lf :: (rest ++ c)) := by simp
    rw [hbytes, scanFront_dollar, sentenceFront, beforeCrLf_append first, length, left]
    rfl
  | frame g u payload ck rest magic fits length left =>
    have hfront : ∀ tail, scanFront cfg (encodeFrameWith cfg g u payload ck ++ tail)
        = frameFront cfg (encodeFrameWith cfg g u payload ck ++ tail) := fun _ => scanFront_frame magic _
    rw [List.append_assoc, hfront, frameFront_append cfg g u ck _ fits, length, left]
  | noise x rest ne notFrame notLone length left =>
    rw [length, left]
    refine scanFront_noise ne (fun hx => ?_) (fun hx hr => notLone hx (List.append_eq_nil_iff.mp hr).1)
    have hne : rest ≠ [] := fun hr => by simp [notLone hx hr] at hretain
    exact (List.head?_append_of_ne_nil rest hne).symm ▸ notFrame hx

/-- The rest forms (a) to (d), written out (10 R22). -/
theorem restForm_cases (h : restForm cfg b = true) :
    b = [] ∨ (∃ rest, b = dollar :: rest ∧ beforeCrLf rest = none)
    ∨ (∃ rest, b = cfg.magic0 :: cfg.magic1 :: rest ∧ (b.length < 6 ∨ b.length < frameLength (payloadLength b)))
    ∨ (b = [cfg.magic0] ∧ cfg.retainLoneMagic0 = true) := by
  cases b with
  | nil => exact .inl rfl
  | cons x rest =>
    simp only [restForm, noCrLf, Bool.or_eq_true, Bool.and_eq_true, beq_iff_eq, decide_eq_true_eq] at h
    rcases h with (⟨rfl, hnone⟩ | ⟨⟨rfl, hhead⟩, hshort⟩) | ⟨⟨rfl, rfl⟩, hretain⟩
    · exact .inr (.inl ⟨rest, rfl, hnone⟩)
    · obtain ⟨tail, rfl⟩ := List.head?_eq_some_iff.mp hhead
      exact .inr (.inr (.inl ⟨tail, rfl, hshort⟩))
    · exact .inr (.inr (.inr ⟨rfl, hretain⟩))

/-- At a rest form the scan stops (10 R22; 44 R182 to R184). -/
theorem scanFront_of_restForm (hm : ∀ rest, b = cfg.magic0 :: rest → cfg.magic0 ≠ dollar)
    (h : restForm cfg b = true) : scanFront cfg b = none := by
  rcases restForm_cases h with rfl | ⟨rest, rfl, hnone⟩ | ⟨rest, rfl, hshort⟩ | ⟨rfl, hretain⟩
  · rfl
  · rw [scanFront_dollar, sentenceFront, hnone]
    rfl
  · rw [scanFront_frame (hm _ rfl)]
    exact frameFront_of_short (by simp) rfl rfl hshort
  · simp only [scanFront, if_neg (hm _ rfl), hretain, and_self, if_true]

end Front

/-! ## The SCAN step (44 R182 to R187) -/

/-- The SCAN step at `pos`, given what stands there. -/
def scanResult (front : Option (Nat × Deposit)) (pos : Nat) (s : State) : State :=
  match front with
  | none => stopScan pos s
  | some (n, w) => advance n (deposit w s)

/-- The step at a `'$'`: the span up to the first CR LF is parsed and routed. -/
theorem framerStep_dollar {s : State} {pos : Nat} {rest : Bytes} (h : s.framer = .scan pos)
    (hbytes : s.buf.drop pos = dollar :: rest) :
    framerStep s = .next (scanResult (sentenceFront s.cfg rest) pos s) := by
  cases htext : beforeCrLf rest with
  | none =>
    rw [framerStep_stop h (hbytes ▸ decodeElement_unterminated s.cfg (by simp [noCrLf, htext])) (by simp),
      sentenceFront, htext]
    rfl
  | some text =>
    simp only [framerStep, framerMove, h, hbytes, decodeElement, if_true, decodeSentence, htext, sentenceFront,
      Option.map_some, scanResult]
    cases hvalid : validateNmea (dollar :: (text ++ [cr, lf])) with
    | true =>
      obtain ⟨body, hbody⟩ := span_of_validateNmea hvalid
      have hlen : (encodeSentence body).length = text.length + 3 := by simp [← hbody]
      simp only [if_true, hbody, exec_decodeSpan, hlen, routeSentence_eq]
    | false =>
      have hparse : parseNmea s.cfg (dollar :: (text ++ [cr, lf]))
          = .error (.checksumMismatch .nmea (text.length + 3)) := by
        simp only [parseNmea, hvalid, if_true]
        simp
      rw [hparse]
      simp [sentenceDeposit, deposit, scanWithout]

/-- The SCAN step is what the bytes at the cursor say. -/
theorem framerStep_scan_eq {s : State} {pos : Nat} (h : s.framer = .scan pos) :
    framerStep s = .next (scanResult (scanFront s.cfg (s.buf.drop pos)) pos s) := by
  by_cases hdollar : ∃ rest, s.buf.drop pos = dollar :: rest
  · obtain ⟨rest, hbytes⟩ := hdollar
    rw [hbytes, scanFront_dollar]
    exact framerStep_dollar h hbytes
  have hframe : ∀ g u payload ck rest, s.buf.drop pos = encodeFrameWith s.cfg g u payload ck ++ rest →
      scanFront s.cfg (s.buf.drop pos) = frameFront s.cfg (s.buf.drop pos) := by
    intro g u payload ck rest hbytes
    have hm : s.cfg.magic0 ≠ dollar := fun hm => hdollar ⟨_, hbytes.trans (by rw [encodeFrameWith, hm]; rfl)⟩
    rw [hbytes]
    exact scanFront_frame hm _
  obtain ⟨t, ht, hcase⟩ := framerStep_scan h
  rw [ht]
  cases hcase with
  | stop rest eq =>
    have hm : ∀ tail, s.buf.drop pos = s.cfg.magic0 :: tail → s.cfg.magic0 ≠ dollar :=
      fun tail hbytes hm => hdollar ⟨tail, hm ▸ hbytes⟩
    rw [scanFront_of_restForm hm rest, eq]
    rfl
  | sentence text rest bytes _ _ => exact absurd ⟨_, bytes⟩ hdollar
  | frame g u payload rest fits bytes eq =>
    rw [hframe g u payload _ rest bytes, bytes, encodeFrame, frameFront_append _ _ _ _ _ fits, if_pos rfl, eq]
    rfl
  | badFrame g u payload ck rest fits bytes bad eq =>
    rw [hframe g u payload _ rest bytes, bytes, frameFront_append _ _ _ _ _ fits, if_neg bad, eq]
    rfl
  | noise x rest bytes ne notFrame notLone eq =>
    rw [bytes, scanFront_noise ne notFrame notLone, eq]
    rfl

/-! ## The terminator by its index (44 R183) -/

/-- A CR LF pair stands at index `i`. -/
def CrLfAt (b : Bytes) (i : Nat) : Prop := i + 1 < b.length ∧ byteAt b i = cr ∧ byteAt b (i + 1) = lf

theorem crLfAt_succ_cons (x : Byte) (b : Bytes) (i : Nat) : CrLfAt (x :: b) (i + 1) ↔ CrLfAt b i := by
  simp [CrLfAt]

theorem crLfAt_drop (b : Bytes) (p i : Nat) : CrLfAt (b.drop p) i ↔ CrLfAt b (p + i) := by
  simp only [CrLfAt, byteAt_drop, List.length_drop, Nat.add_assoc]
  exact and_congr_left fun _ => by omega

theorem not_crLfAt_of_none {b : Bytes} (h : beforeCrLf b = none) (i : Nat) : ¬ CrLfAt b i := by
  induction b generalizing i with
  | nil => simp [CrLfAt]
  | cons x xs ih =>
    simp only [beforeCrLf] at h
    split at h
    · simp at h
    · rename_i hfirst
      cases i with
      | zero =>
        rintro ⟨hlen, hcr, hlf⟩
        obtain ⟨y, ys, rfl⟩ := List.exists_cons_of_length_pos (by simpa using hlen : 0 < xs.length)
        exact hfirst ⟨hcr, congrArg some hlf⟩
      | succ i =>
        rw [crLfAt_succ_cons]
        exact ih (Option.map_eq_none_iff.mp h) i

/-- The bytes before the first CR LF end where the pair of the smallest index stands. -/
theorem crLfAt_of_some {b t : Bytes} (h : beforeCrLf b = some t) :
    CrLfAt b t.length ∧ ∀ i, i < t.length → ¬ CrLfAt b i := by
  obtain ⟨⟨rest, rfl⟩, hnone⟩ := beforeCrLf_some h
  refine ⟨⟨by simp, byteAt_append_right t _ 0, byteAt_append_right t _ 1⟩, fun i hi ⟨_, hcr, hlf⟩ => ?_⟩
  have hcut : t ++ cr :: lf :: rest = (t ++ [cr]) ++ lf :: rest := by simp
  have hlen : i + 1 < (t ++ [cr]).length := by simpa using hi
  rw [hcut, byteAt_append_left _ _ _ (by omega)] at hcr
  rw [hcut, byteAt_append_left _ _ _ hlen] at hlf
  exact not_crLfAt_of_none hnone i ⟨hlen, hcr, hlf⟩

/-- The index test of the pseudocode: a CR LF pair after the `'$'` at `pos`. -/
theorem terminatorTest_iff (buf : Bytes) (pos j : Nat) :
    (decide (pos + 1 ≤ j) && decide (j + 1 < buf.length) && byteAt buf j == cr && byteAt buf (j + 1) == lf) = true
      ↔ pos + 1 ≤ j ∧ CrLfAt (buf.drop (pos + 1)) (j - (pos + 1)) := by
  simp only [Bool.and_eq_true, decide_eq_true_eq, beq_iff_eq, and_assoc]
  refine and_congr_right fun hj => ?_
  rw [crLfAt_drop, Nat.add_sub_cancel' hj, CrLfAt]

/-- The search by index finds the terminator that the search over the bytes finds. -/
theorem terminatorIndex_eq (buf : Bytes) (pos : Nat) :
    terminatorIndex buf pos = (beforeCrLf (buf.drop (pos + 1))).map fun text => pos + 1 + text.length := by
  cases htext : beforeCrLf (buf.drop (pos + 1)) with
  | none =>
    refine List.find?_range_eq_none.mpr fun j _ => ?_
    rw [Bool.not_eq_true', ← Bool.not_eq_true, terminatorTest_iff]
    exact fun ⟨_, hat⟩ => not_crLfAt_of_none htext _ hat
  | some text =>
    obtain ⟨hat, hfirst⟩ := crLfAt_of_some htext
    rw [Option.map_some]
    refine List.find?_range_eq_some.mpr ⟨?_, ?_, fun j hj => ?_⟩
    · rw [terminatorTest_iff, Nat.add_sub_cancel_left]
      exact ⟨Nat.le_add_right _ _, hat⟩
    · obtain ⟨hlen, _⟩ := (crLfAt_drop _ _ _).mp hat
      exact List.mem_range.mpr (by omega)
    · rw [Bool.not_eq_true', ← Bool.not_eq_true, terminatorTest_iff]
      exact fun ⟨hle, hat'⟩ => hfirst (j - (pos + 1)) (by omega) hat'

/-! ## The pseudocode (44 R182 to R187) -/

theorem advance_eq_setCursor {s : State} {pos : Nat} (h : s.framer = .scan pos) (n : Nat) :
    advance n s = setCursor (pos + n) s := by
  simp only [advance, setCursor, h, advanceFramer]

theorem drop_eq_byteAt_cons {b : Bytes} {pos : Nat} (h : pos < b.length) :
    b.drop pos = byteAt b pos :: b.drop (pos + 1) := by
  rw [List.drop_eq_getElem_cons h, byteAt, List.getD_eq_getElem _ _ h]

section Pseudocode
variable {s : State} {pos : Nat}

/-- The pseudocode at a `'$'` (44 R183, R186). -/
theorem scanPseudocode_dollar (h : s.framer = .scan pos) (hlt : pos < s.buf.length)
    (hd : byteAt s.buf pos = dollar) :
    scanPseudocode pos s = scanResult (sentenceFront s.cfg (s.buf.drop (pos + 1))) pos s := by
  simp only [scanPseudocode, if_neg (Nat.ne_of_lt hlt), if_pos hd, terminatorIndex_eq, sentenceFront]
  cases htext : beforeCrLf (s.buf.drop (pos + 1)) with
  | none => rfl
  | some text =>
    obtain ⟨⟨rest, hrest⟩, _⟩ := beforeCrLf_some htext
    have hspan : slice s.buf pos (pos + 1 + text.length + 2) = dollar :: (text ++ [cr, lf]) := by
      have hlen : pos + 1 + text.length + 2 - pos = (text.length + 2) + 1 := by omega
      rw [slice, drop_eq_byteAt_cons hlt, hd, hrest, hlen, List.take_succ_cons, List.take_append]
      simp
    have hcursor : pos + 1 + text.length + 2 = pos + (text.length + 3) := by omega
    simp only [Option.map_some, hspan, scanResult]
    rw [advance_eq_setCursor (by rw [deposit_framer, h]), hcursor]
    cases parseNmea s.cfg (dollar :: (text ++ [cr, lf])) with
    | ok r =>
      simp only [sentenceDeposit, deposit, acceptRecord]
      split <;> rfl
    | error e => rfl

/-- The pseudocode at both magic bytes (44 R184 (b), R187). -/
theorem scanPseudocode_frame (h : s.framer = .scan pos) (hlt : pos + 1 < s.buf.length)
    (hd : byteAt s.buf pos ≠ dollar) (h0 : byteAt s.buf pos = s.cfg.magic0)
    (h1 : byteAt s.buf (pos + 1) = s.cfg.magic1) :
    scanPseudocode pos s = scanResult (frameFront s.cfg (s.buf.drop pos)) pos s := by
  have hcursor : ∀ n w, advance n (deposit w s) = setCursor (pos + n) (deposit w s) :=
    fun n w => advance_eq_setCursor (by rw [deposit_framer, h]) n
  have hnotLone : ¬ (byteAt s.buf pos = s.cfg.magic0 ∧ pos + 1 = s.buf.length ∧ s.cfg.retainLoneMagic0 = true) :=
    fun ⟨_, hlast, _⟩ => Nat.ne_of_lt hlt hlast
  simp only [scanPseudocode, if_neg (show pos ≠ s.buf.length by omega), if_neg hd, if_neg hnotLone,
    if_pos (And.intro h0 (And.intro hlt h1)), slice_to_end, frameFront]
  rcases parseFrame s.cfg (s.buf.drop pos) with ⟨n, status, event⟩
  cases status with
  | ok =>
    cases event with
    | none => rfl
    | some e =>
      have hframe := (hcursor n (.frame e)).symm
      cases e <;> exact hframe
  | checksumMismatch => exact (hcursor n (.logged _)).symm
  | incomplete | badMagic => rfl

theorem scanPseudocode_eq (h : s.framer = .scan pos) (hpos : pos ≤ s.buf.length) :
    scanPseudocode pos s = scanResult (scanFront s.cfg (s.buf.drop pos)) pos s := by
  by_cases hend : pos = s.buf.length
  · rw [scanPseudocode, if_pos hend, List.drop_eq_nil_of_le (by omega)]
    rfl
  have hlt : pos < s.buf.length := by omega
  rw [drop_eq_byteAt_cons hlt]
  by_cases hd : byteAt s.buf pos = dollar
  · rw [hd, scanFront_dollar]
    exact scanPseudocode_dollar h hlt hd
  have hlast : s.buf.drop (pos + 1) = [] ↔ pos + 1 = s.buf.length := by
    rw [List.drop_eq_nil_iff]
    omega
  have hnext : (s.buf.drop (pos + 1)).head? = some s.cfg.magic1
      ↔ pos + 1 < s.buf.length ∧ byteAt s.buf (pos + 1) = s.cfg.magic1 := by
    by_cases hlt1 : pos + 1 < s.buf.length
    · simp [drop_eq_byteAt_cons hlt1, hlt1]
    · simp [List.drop_eq_nil_of_le (Nat.le_of_not_lt hlt1), hlt1]
  simp only [scanFront, if_neg hd, hlast, hnext]
  by_cases hlone : byteAt s.buf pos = s.cfg.magic0 ∧ pos + 1 = s.buf.length ∧ s.cfg.retainLoneMagic0 = true
  · simp only [scanPseudocode, if_neg hend, if_neg hd, if_pos hlone]
    rfl
  by_cases hframe : byteAt s.buf pos = s.cfg.magic0 ∧ pos + 1 < s.buf.length ∧ byteAt s.buf (pos + 1) = s.cfg.magic1
  · obtain ⟨h0, hlt1, h1⟩ := hframe
    rw [if_neg hlone, if_pos ⟨h0, hlt1, h1⟩, ← drop_eq_byteAt_cons hlt]
    exact scanPseudocode_frame h hlt1 hd h0 h1
  · simp only [scanPseudocode, if_neg hend, if_neg hd, if_neg hlone, if_neg hframe]
    exact (advance_eq_setCursor h 1).symm

end Pseudocode

/-- Settles O19: both are what the bytes at the cursor say. -/
theorem scanStepIsPseudocode : Obligations.ScanStepIsPseudocode :=
  fun _ _ h hpos => (framerStep_scan_eq h).trans (congrArg _ (scanPseudocode_eq h hpos).symm)

/-! ## The cursor moves forward (44 R191) -/

/-- How far the element at the front takes the cursor at least: 3 bytes at a `'$'`, 8 at a frame. -/
theorem FrontCase.least {cfg : Config} {n : Nat} {w : Deposit} {b : Bytes} (h : FrontCase cfg n w b) :
    (byteAt b 0 = dollar → 3 ≤ n)
    ∧ (byteAt b 0 ≠ dollar → byteAt b 0 = cfg.magic0 → 1 < b.length → byteAt b 1 = cfg.magic1 → 8 ≤ n) := by
  cases h with
  | sentence text rest _ length _ => exact ⟨fun _ => by omega, fun hd => absurd rfl hd⟩
  | frame g u payload ck rest magic _ length _ =>
    exact ⟨fun hd => absurd hd magic, fun _ _ _ _ => by rw [length, frameLength]; omega⟩
  | noise x rest ne notFrame _ _ _ =>
    refine ⟨fun hd => absurd hd ne, fun _ hx hlen hy => absurd ?_ (notFrame hx)⟩
    obtain ⟨y, ys, rfl⟩ := List.exists_cons_of_length_pos (by simpa using hlen : 0 < rest.length)
    exact congrArg some hy

/-- Settles O23: the scan stops, or the element at the cursor is one of the cases of `FrontCase`. -/
theorem scanStepMovesForward : Obligations.ScanStepMovesForward := by
  intro s pos h hpos
  refine ⟨_, framerStep_scan_eq h, ?_⟩
  cases hfront : scanFront s.cfg (s.buf.drop pos) with
  | none => exact ⟨rfl, .inl rfl⟩
  | some front =>
    obtain ⟨n, w⟩ := front
    have hcase := frontCase_of_scanFront hfront
    obtain ⟨hmin, hmax⟩ := hcase.bounds
    obtain ⟨hdollar, hframe⟩ := hcase.least
    simp only [byteAt_drop, Nat.add_zero, List.length_drop] at hdollar hframe hmax
    have hframer : (advance n (deposit w s)).framer = .scan (pos + n) := by
      rw [advance_framer, deposit_framer, h, advanceFramer]
    refine ⟨by rw [scanResult, advance_buf, deposit_buf], .inr ⟨pos + n, hframer, by omega, by omega, fun hd => ?_, ?_⟩⟩
    · have := hdollar hd
      omega
    · intro hd h0 hlt h1
      have := hframe hd h0 (by omega) h1
      omega

end Sys2Proof.Machine
end

section
/-!
PROOFS. Whole scans and whole FEEDs: a scan as the list of what it leaves in the store and the bytes it keeps, the run
of one FEED, and from these its completion (O24), the empty FEED (O26), noise (O27) and chunking invariance (O25).
-/

namespace Sys2Proof.Machine

/-! ## A scan from its first step to its stop (44 R182) -/

/-- The scan of `b` leaves `ws` in the store, in order, and stops before the bytes `r`. -/
inductive Scans (cfg : Config) : Bytes → List Deposit → Bytes → Prop where
  | stop {b : Bytes} (front : scanFront cfg b = none) : Scans cfg b [] b
  | more {b r : Bytes} {n : Nat} {w : Deposit} {ws : List Deposit} (front : scanFront cfg b = some (n, w))
      (rest : Scans cfg (b.drop n) ws r) : Scans cfg b (w :: ws) r

section Scans
variable {cfg : Config} {b r : Bytes} {ws : List Deposit}

/-- Every scan comes to its stop, after at most one step for each byte (44 R191). -/
theorem exists_scans (cfg : Config) (b : Bytes) : ∃ ws r, Scans cfg b ws r ∧ ws.length ≤ b.length := by
  cases hfront : scanFront cfg b with
  | none => exact ⟨[], b, .stop hfront, Nat.zero_le _⟩
  | some front =>
    obtain ⟨n, w⟩ := front
    obtain ⟨hmin, hmax⟩ := (frontCase_of_scanFront hfront).bounds
    have hlen : (b.drop n).length = b.length - n := List.length_drop
    obtain ⟨ws, r, hscan, hle⟩ := exists_scans cfg (b.drop n)
    exact ⟨w :: ws, r, .more hfront hscan, by rw [List.length_cons]; omega⟩
termination_by b.length

theorem Scans.stopped (h : Scans cfg b ws r) : scanFront cfg r = none := by
  induction h with
  | stop front => exact front
  | more _ _ ih => exact ih

theorem Scans.unique {ws' : List Deposit} {r' : Bytes} (h : Scans cfg b ws r) (h' : Scans cfg b ws' r') :
    ws = ws' ∧ r = r' := by
  induction h generalizing ws' with
  | stop front =>
    cases h' with
    | stop _ => exact ⟨rfl, rfl⟩
    | more front' _ => simp [front] at front'
  | more front _ ih =>
    cases h' with
    | stop front' => simp [front] at front'
    | more front' rest' =>
      obtain ⟨rfl, rfl⟩ := Prod.mk.inj (Option.some.inj (front.symm.trans front'))
      obtain ⟨rfl, rfl⟩ := ih rest'
      exact ⟨rfl, rfl⟩

/-- Scanning bytes and then what they leave over joined to later bytes is scanning all of them (44 R192). -/
theorem Scans.append (hretain : cfg.retainLoneMagic0 = true) {c r' : Bytes} {ws' : List Deposit}
    (h : Scans cfg b ws r) (h' : Scans cfg (r ++ c) ws' r') : Scans cfg (b ++ c) (ws ++ ws') r' := by
  induction h with
  | stop _ => exact h'
  | more front _ ih =>
    obtain ⟨_, hmax⟩ := (frontCase_of_scanFront front).bounds
    refine .more (scanFront_append hretain front c) ?_
    rw [List.drop_append_of_le_length hmax]
    exact ih h'

/-- A noise byte at the front of noise is noise, and so are the bytes after it. -/
theorem scanFront_of_isNoiseAt {x : Byte} {rest : Bytes} (h : isNoiseAt cfg (x :: rest) 0) :
    scanFront cfg (x :: rest) = some (1, .nothing) := by
  obtain ⟨hd, hmagic⟩ := h
  refine scanFront_noise hd (fun hx hhead => ?_) (fun hx hr => (hmagic hx).2 (by rw [hr]; rfl))
  obtain ⟨tail, rfl⟩ := List.head?_eq_some_iff.mp hhead
  exact (hmagic hx).1 (by simp) rfl

theorem isNoiseAt_of_cons {x : Byte} {rest : Bytes} {p : Nat} (h : isNoiseAt cfg (x :: rest) (p + 1)) :
    isNoiseAt cfg rest p := by
  simpa [isNoiseAt] using h

/-- A scan of noise alone keeps no byte and leaves nothing in the store (44 R185, R195). -/
theorem scans_noise (h : ∀ p, p < b.length → isNoiseAt cfg b p) :
    Scans cfg b (List.replicate b.length .nothing) [] := by
  induction b with
  | nil => exact .stop rfl
  | cons x rest ih =>
    refine .more (scanFront_of_isNoiseAt (h 0 (by simp))) (ih fun p hp => ?_)
    exact isNoiseAt_of_cons (h (p + 1) (by simpa using hp))

end Scans

/-! ## The store after a scan -/

/-- The deposits of a scan, put into the store in their order. -/
def deposits (ws : List Deposit) (s : State) : State := ws.foldl (fun t w => deposit w t) s

theorem deposits_cons (w : Deposit) (ws : List Deposit) (s : State) :
    deposits (w :: ws) s = deposits ws (deposit w s) := rfl

theorem deposits_append (ws ws' : List Deposit) (s : State) : deposits (ws ++ ws') s = deposits ws' (deposits ws s) :=
  List.foldl_append

@[simp] theorem deposits_cfg (ws : List Deposit) (s : State) : (deposits ws s).cfg = s.cfg := by
  induction ws generalizing s with
  | nil => rfl
  | cons w ws ih => rw [deposits_cons, ih, deposit_cfg]

theorem deposits_noise (n : Nat) (s : State) : deposits (List.replicate n .nothing) s = s := by
  induction n with
  | zero => rfl
  | succ n ih => exact ih

theorem deposit_diag (w : Deposit) (s : State) : s.diag <+: (deposit w s).diag := by
  cases w with
  | nothing => exact List.prefix_rfl
  | record r => rw [deposit, acceptRecord_eq]
  | frame e => rw [deposit, routeEvent_eq]
  | logged e => exact List.prefix_append _ _

theorem deposits_diag (ws : List Deposit) (s : State) : s.diag <+: (deposits ws s).diag := by
  induction ws generalizing s with
  | nil => exact List.prefix_rfl
  | cons w ws ih => exact (deposit_diag w s).trans (ih _)

/-- `s` in the course of a FEED: `BUF`, the phase with `BUSY` as it belongs to the phase (10 R28), and the ports. What
the FEED leaves in the store is a matter of `s`. -/
def duringFeed (b : Bytes) (f : Framer) (ts : List Turn) (p : List Response) (s : State) : State :=
  { s with buf := b, busy := f != .idle, framer := f, turns := ts, responses := p }

theorem deposit_duringFeed (w : Deposit) (b : Bytes) (f : Framer) (ts : List Turn) (p : List Response) (s : State) :
    deposit w (duringFeed b f ts p s) = duringFeed b f ts p (deposit w s) := by
  cases w with
  | nothing | logged => rfl
  | record r => simp only [deposit, acceptRecord_eq]; rfl
  | frame e => simp only [deposit, routeEvent_eq]; rfl

theorem deposits_duringFeed (ws : List Deposit) (b : Bytes) (f : Framer) (ts : List Turn) (p : List Response)
    (s : State) : deposits ws (duringFeed b f ts p s) = duringFeed b f ts p (deposits ws s) := by
  induction ws generalizing s with
  | nil => rfl
  | cons w ws ih => rw [deposits_cons, deposit_duringFeed, ih, deposits_cons]

/-! ## Runs -/

theorem run_trans {s t u : State} {m n : Nat} (h : run m s = .next t) (h' : run n t = .next u) :
    run (m + n) s = .next u := by
  induction m generalizing s with
  | zero =>
    obtain rfl := Host.Outcome.next.inj h
    rwa [Nat.zero_add]
  | succ m ih =>
    cases hstep : step s with
    | next s' =>
      rw [run_succ m hstep] at h
      rw [Nat.succ_add, run_succ _ hstep]
      exact ih h
    | fault why => cases why
    | refused why =>
      have hcore : Sys2Proof.core.step s = .refused why := hstep
      simp [run, Host.Core.run, hcore] at h

/-- No FEED is running and no host waits. -/
def Settled (s : State) : Prop := atRest s = true ∧ s.turns = []

theorem run_of_settled {s : State} (h : Settled s) (n : Nat) : run n s = .next s := by
  obtain ⟨hrest, hturns⟩ := h
  obtain ⟨_, hidle⟩ := (atRest_iff s).mp hrest
  have hstep : step s = .next s := by rw [step_of_no_turns hturns, framerStep, framerMove, hidle]
  induction n with
  | zero => rfl
  | succ n ih => rw [run_succ n hstep, ih]

/-- Where a run settles does not depend on how long it goes on. -/
theorem settled_unique {s t u : State} {m n : Nat} (h : run m s = .next t) (h' : run n s = .next u) (ht : Settled t)
    (hu : Settled u) : t = u := by
  have hlong : run (m + n) s = .next t := run_trans h (run_of_settled ht n)
  have hlong' : run (n + m) s = .next u := run_trans h' (run_of_settled hu m)
  rw [Nat.add_comm, hlong'] at hlong
  exact (Host.Outcome.next.inj hlong).symm

/-! ## The run of one FEED (44 R180) -/

/-- Chunks that the feeding host has still to feed. -/
abbrev feedTurns (cfg : Config) (chunks : List Bytes) : List Turn :=
  hostProgram .feedingHost cfg (chunks.map .feed)

section Feed
variable {cfg : Config} {chunks : List Bytes} {s : State} {p : List Response} {b r : Bytes} {ws : List Deposit}

/-- While a FEED runs the framer moves: later chunks are held (45 R218). -/
theorem step_of_busy (hb : s.busy = true) (hturns : s.turns = feedTurns cfg chunks) : step s = framerStep s := by
  cases chunks with
  | nil => exact step_of_no_turns hturns
  | cons c cs => exact step_of_isHeld hturns rfl rfl ((isHeld_iff (.feed c) s).mpr ⟨hb, .inl ⟨c, rfl⟩⟩)

/-- The SCAN step inside a FEED (44 R182 to R187). -/
theorem step_scanning (b : Bytes) (pos : Nat) (p : List Response) (s : State) :
    step (duringFeed b (.scan pos) (feedTurns cfg chunks) p s)
      = .next (scanResult (scanFront s.cfg (b.drop pos)) pos (duringFeed b (.scan pos) (feedTurns cfg chunks) p s)) :=
  (step_of_busy rfl rfl).trans (framerStep_scan_eq rfl)

/-- From the scan to BOUND: a SCAN step for each deposit, the stop, and COMPACT (44 R182, R188). -/
theorem run_scans {c : Config} {rest : Bytes} {pos : Nat} (h : Scans c rest ws r) (hcfg : s.cfg = c)
    (hcut : b.drop pos = rest) :
    run (ws.length + 2) (duringFeed b (.scan pos) (feedTurns cfg chunks) p s)
      = .next (duringFeed r .bound (feedTurns cfg chunks) p (deposits ws s)) := by
  induction h generalizing pos s with
  | stop front =>
    have hstop := step_scanning (cfg := cfg) (chunks := chunks) b pos p s
    rw [hcut, hcfg, front] at hstop
    have hcompact : step (duringFeed b (.compact pos) (feedTurns cfg chunks) p s)
        = .next (duringFeed (b.drop pos) .bound (feedTurns cfg chunks) p s) :=
      (step_of_busy rfl rfl).trans (framerStep_compact rfl)
    rw [← hcut]
    exact (run_succ 1 hstop).trans (run_succ 0 hcompact)
  | @more rest _ n w _ front _ ih =>
    have hstep := step_scanning (cfg := cfg) (chunks := chunks) b pos p s
    rw [hcut, hcfg, front, scanResult, deposit_duringFeed] at hstep
    have hnext : b.drop (pos + n) = rest.drop n := by rw [← hcut, List.drop_drop]
    rw [List.length_cons, Nat.succ_add, run_succ _ hstep]
    exact ih ((deposit_cfg w s).trans hcfg) hnext

/-- A FEED comes to BOUND with its deposits in the store and the bytes that its scan keeps in `BUF`. -/
theorem run_feed_scans {chunk : Bytes} (hb : s.busy = false) (hturns : s.turns = feedTurns cfg (chunk :: chunks))
    (h : Scans s.cfg (s.buf ++ chunk) ws r) :
    run (ws.length + 5) s
      = .next (boundStep (duringFeed r .bound (feedTurns cfg chunks) s.responses (deposits ws s))) := by
  have haccept : step s = .next (duringFeed s.buf (.append chunk) (feedTurns cfg chunks) s.responses s) := by
    rw [step_feed hb hturns, startFeed, takeTurn, hturns]
    rfl
  have happend : step (duringFeed s.buf (.append chunk) (feedTurns cfg chunks) s.responses s)
      = .next (duringFeed (s.buf ++ chunk) (.scan 0) (feedTurns cfg chunks) s.responses s) :=
    (step_of_busy rfl rfl).trans (framerStep_append rfl)
  have hbound : step (duringFeed r .bound (feedTurns cfg chunks) s.responses (deposits ws s))
      = .next (boundStep (duringFeed r .bound (feedTurns cfg chunks) s.responses (deposits ws s))) :=
    (step_of_busy rfl rfl).trans (framerStep_bound rfl)
  rw [run_succ _ haccept, run_succ _ happend]
  have hscan := run_scans (cfg := cfg) (chunks := chunks) (p := s.responses) (pos := 0) h rfl rfl
  exact run_trans (n := 1) hscan (run_succ 0 hbound)

/-- BOUND keeps the bytes or discards and logs them, and answers (44 R189). -/
theorem boundStep_duringFeed (r : Bytes) (ts : List Turn) (p : List Response) (s : State) :
    boundStep (duringFeed r .bound ts p s) = if r.length ≤ bufMax
      then duringFeed r .idle ts (p ++ [⟨none, .empty⟩]) s
      else duringFeed [] .idle ts (p ++ [⟨none, .empty⟩]) (logDiag (.bufferOverflow r.length) s) := by
  rcases boundStep_cases (duringFeed r .bound ts p s) with ⟨hlen, hbound⟩ | ⟨hlen, hbound⟩ <;> rw [hbound]
  · exact (if_pos hlen).symm
  · exact (if_neg (Nat.not_le.mpr hlen)).symm

end Feed

/-- Settles O24: a FEED is `|ws| + 5` steps long for a scan of `|ws| ≤ |BUF| + |c|` elements. -/
theorem feedCompletes : Obligations.FeedCompletes := by
  intro s chunk hb hturns
  obtain ⟨ws, r, hscan, hle⟩ := exists_scans s.cfg (s.buf ++ chunk)
  rw [List.length_append] at hle
  refine ⟨ws.length + 5, _, by omega, run_feed_scans (cfg := s.cfg) (chunks := []) hb hturns hscan, ?_⟩
  rw [boundStep_duringFeed]
  split <;> exact ⟨rfl, rfl, rfl, rfl⟩

/-- A FEED to a block at rest whose scan leaves nothing in the store and keeps at most `BUF_MAX` bytes. -/
theorem run_feed_of_no_deposits {s : State} {chunk r : Bytes} {ws : List Deposit} (hrest : atRest s = true)
    (hturns : s.turns = [.request .feedingHost (encode s.cfg (.feed chunk))]) (h : Scans s.cfg (s.buf ++ chunk) ws r)
    (hws : deposits ws s = s) (hlen : r.length ≤ bufMax) :
    run (ws.length + 5) s
      = .next { s with buf := r, turns := [], responses := s.responses ++ [⟨none, .empty⟩] } := by
  obtain ⟨hbusy, hidle⟩ := (atRest_iff s).mp hrest
  rw [run_feed_scans (cfg := s.cfg) (chunks := []) hbusy hturns h, hws, boundStep_duringFeed, if_pos hlen, duringFeed]
  simp only [hbusy, hidle]
  rfl

/-- Settles O26: `BUF` at rest stops the scan at its first byte and is short enough for BOUND. -/
theorem emptyFeedChangesNothing : Obligations.EmptyFeedChangesNothing := by
  intro s hinv hrest hturns
  obtain ⟨_, hidle⟩ := (atRest_iff s).mp hrest
  obtain ⟨hform, hlen⟩ := (framerFits_idle hidle).mp hinv.framer
  have hstop : Scans s.cfg (s.buf ++ []) [] s.buf := by
    rw [List.append_nil]
    exact .stop (scanFront_of_restForm (fun _ _ => magic0_ne_dollar hinv.cfg) hform)
  exact ⟨_, run_feed_of_no_deposits hrest hturns hstop rfl hlen⟩

/-- Settles O27: each byte is discarded, so the scan keeps none and BOUND finds nothing to discard. -/
theorem noiseNeverOverflows : Obligations.NoiseNeverOverflows := by
  intro s chunk hrest hbuf hnoise hturns
  have hscan : Scans s.cfg (s.buf ++ chunk) (List.replicate chunk.length .nothing) [] := by
    rw [hbuf]
    exact scans_noise hnoise
  refine ⟨_, (run_feed_of_no_deposits hrest hturns hscan (deposits_noise _ s) (Nat.zero_le _)).trans ?_⟩
  rw [← hbuf]

/-! ## Chunking (44 R192) -/

theorem overflowCount_le_of_prefix {d d' : List ErrorRecord} (h : d <+: d') : overflowCount d ≤ overflowCount d' :=
  h.sublist.countP_le

theorem overflowCount_logDiag (n : Nat) (s : State) :
    overflowCount (logDiag (.bufferOverflow n) s).diag = overflowCount s.diag + 1 := by
  simp [overflowCount]

/-- A run of FEEDs settles; if none overflows, it ends as one scan of all the bytes does. -/
theorem run_feeds (cfg : Config) (chunks : List Bytes) {b : Bytes} {p : List Response} {s : State}
    (hretain : s.cfg.retainLoneMagic0 = true) (hstop : scanFront s.cfg b = none) :
    ∃ n t, run n (duringFeed b .idle (feedTurns cfg chunks) p s) = .next t ∧ Settled t
      ∧ overflowCount s.diag ≤ overflowCount t.diag
      ∧ (overflowCount t.diag = overflowCount s.diag → ∃ ws r q, Scans s.cfg (b ++ chunks.flatten) ws r
          ∧ t = duringFeed r .idle [] q (deposits ws s)) := by
  induction chunks generalizing b p s with
  | nil =>
    refine ⟨0, _, rfl, ⟨rfl, rfl⟩, le_rfl, fun _ => ⟨[], b, p, ?_, rfl⟩⟩
    rw [List.flatten_nil, List.append_nil]
    exact .stop hstop
  | cons c cs ih =>
    obtain ⟨ws, r, hscan, _⟩ := exists_scans s.cfg (b ++ c)
    have hfeed := run_feed_scans (cfg := cfg) (chunks := cs)
      (s := duringFeed b .idle (feedTurns cfg (c :: cs)) p s) rfl rfl hscan
    have hmono := overflowCount_le_of_prefix (deposits_diag ws s)
    rw [deposits_duringFeed] at hfeed
    by_cases hlen : r.length ≤ bufMax
    · have hkept := (boundStep_duringFeed r (feedTurns cfg cs) p (deposits ws s)).trans (if_pos hlen)
      obtain ⟨n, t, hrun, hsettled, hcount, heq⟩ := ih (p := p ++ [⟨none, .empty⟩]) (s := deposits ws s) (b := r)
        (by rwa [deposits_cfg]) (by rw [deposits_cfg]; exact hscan.stopped)
      refine ⟨_, t, run_trans (hfeed.trans (congrArg _ hkept)) hrun, hsettled, hmono.trans hcount, fun hno => ?_⟩
      obtain ⟨ws', r', q, hscan', ht⟩ := heq (le_antisymm (hno ▸ hmono) hcount)
      refine ⟨ws ++ ws', r', q, ?_, by rw [ht, deposits_append]⟩
      rw [deposits_cfg] at hscan'
      rw [List.flatten_cons, ← List.append_assoc]
      exact hscan.append hretain hscan'
    · have hlost := (boundStep_duringFeed r (feedTurns cfg cs) p (deposits ws s)).trans (if_neg hlen)
      obtain ⟨n, t, hrun, hsettled, hcount, _⟩ := ih (p := p ++ [⟨none, .empty⟩])
        (s := logDiag (.bufferOverflow r.length) (deposits ws s)) (b := []) (by simpa using hretain) rfl
      rw [overflowCount_logDiag] at hcount
      exact ⟨_, t, run_trans (hfeed.trans (congrArg _ hlost)) hrun, hsettled, by omega, fun hno => by omega⟩

/-- What a run of FEEDs from a legal state at rest ends in, if it settles and none overflows. -/
theorem settled_run_feeds {s t : State} {chunks : List Bytes} {n : Nat} (hinv : Inv s) (hrest : atRest s = true)
    (hretain : s.cfg.retainLoneMagic0 = true)
    (hrun : run n { s with turns := hostProgram .feedingHost s.cfg (chunks.map .feed) } = .next t) (ht : Settled t)
    (hno : overflowCount t.diag = overflowCount s.diag) :
    ∃ ws r q, Scans s.cfg (s.buf ++ chunks.flatten) ws r ∧ t = duringFeed r .idle [] q (deposits ws s) := by
  obtain ⟨hbusy, hidle⟩ := (atRest_iff s).mp hrest
  obtain ⟨hform, _⟩ := (framerFits_idle hidle).mp hinv.framer
  have hstop := scanFront_of_restForm (fun _ _ => magic0_ne_dollar hinv.cfg) hform
  have hstart : { s with turns := feedTurns s.cfg chunks }
      = duringFeed s.buf .idle (feedTurns s.cfg chunks) s.responses s := by
    simp only [duringFeed, hbusy, hidle, bne_self_eq_false]
  obtain ⟨m, u, hrun', hu, _, heq⟩ := run_feeds s.cfg chunks (p := s.responses) hretain hstop
  rw [← hstart] at hrun'
  obtain rfl := settled_unique hrun hrun' ht hu
  exact heq hno

/-- Settles O25: without an overflow both runs end as the one scan of all the bytes does. -/
theorem chunkingInvariance : Obligations.ChunkingInvariance := by
  intro s t u chunks n m hinv hrest hretain hrun hrun' ht htturns hu huturns hno hno'
  obtain ⟨ws, r, q, hscan, rfl⟩ := settled_run_feeds hinv hrest hretain hrun ⟨ht, htturns⟩ hno
  obtain ⟨ws', r', q', hscan', rfl⟩ :=
    settled_run_feeds (chunks := [chunks.flatten]) hinv hrest hretain hrun' ⟨hu, huturns⟩ hno'
  rw [List.flatten_singleton] at hscan'
  obtain ⟨rfl, rfl⟩ := hscan.unique hscan'
  exact ⟨rfl, rfl, rfl, rfl, rfl⟩

end Sys2Proof.Machine
end

section
/-!
PROOFS. A lone `MAGIC0` at the decoder (O3), the framer's single steps (O8, O20, O21, O22, O38), what each inbound row
adds to the logs (O18), and the next state that legal hosts always find (O14).
-/

namespace Sys2Proof.Machine

/-! ## The framer's steps (44 R180 to R189) -/

/-- Settles O3: the decoder tests the byte after `MAGIC0`, and RETAIN_LONE_MAGIC0 where there is none. -/
theorem loneMagicByte : Obligations.LoneMagicByte := by
  intro cfg y rest hcfg hy
  have hm := magic0_ne_dollar hcfg
  refine ⟨?_, ?_⟩
  · simp only [decodeElement, if_neg hm, if_true, if_neg hy]
  · simp only [decodeElement, if_neg hm, if_true]

theorem framerStep_element {s : State} {pos : Nat} {i : Instr} (h : s.framer = .scan pos)
    (hdec : decodeElement s.cfg (s.buf.drop pos) = .ok i) : framerStep s = exec i s := by
  simp only [framerStep, framerMove, h, hdec]

theorem step_of_framer_turn {s : State} {rest : List Turn} (h : s.turns = .framer :: rest) :
    step s = framerStep { s with turns := rest } := by
  simp only [step, nextMove, takeFramerTurn, takeTurn, h, List.tail_cons]

/-- Settles O8: the move is the framer's, and the framer runs what the decoder reads at the cursor. -/
theorem stepRunsElement : Obligations.StepRunsElement := by
  intro s pos rest i h hdec
  refine ⟨fun hturn => ?_, fun hno => ?_⟩
  · exact (step_of_framer_turn hturn).trans (framerStep_element (s := { s with turns := rest }) h hdec)
  · exact (step_of_no_turns hno).trans (framerStep_element h hdec)

/-- Settles O20: `appendStep` is the rule's two assignments. -/
theorem appendStep_spec : Obligations.AppendStep := fun _ _ h => framerStep_append h

/-- Settles O21: the slice from the cursor to the end is what `drop` keeps. -/
theorem compactStep_spec : Obligations.CompactStep := by
  intro s pos h
  rw [framerStep_compact h, slice_to_end]
  rfl

/-- Settles O22: the two cases of BOUND exclude each other by the length. -/
theorem boundStep_spec : Obligations.BoundStep := by
  intro s h
  rw [framerStep_bound h]
  refine ⟨fun hle => ?_, fun hlt => ?_⟩ <;> rcases boundStep_cases s with ⟨hlen, hbound⟩ | ⟨hlen, hbound⟩
  · rw [hbound]
  · exact absurd hlen (Nat.not_lt.mpr hle)
  · exact absurd hlt (Nat.not_lt.mpr hlen)
  · rw [hbound]

/-- Settles O38: NOISE is `advance 1`. -/
theorem noiseByteIsDiscarded : Obligations.NoiseByteIsDiscarded := by
  intro s b pos h
  simp only [exec, execNoise, advance, h, advanceFramer]

/-! ## One entry for each element (44 R180 (2), 60 R252) -/

/-- At most one event or one diagnostic more, and neither `BUF`, `BUSY` nor the ports changed. -/
def AddsOneEntry (s t : State) : Prop :=
  ((t.out = s.out ∧ t.diag = s.diag) ∨ ((∃ e, t.out = s.out ++ [e]) ∧ t.diag = s.diag)
    ∨ (t.out = s.out ∧ ∃ d, t.diag = s.diag ++ [d]))
  ∧ t.buf = s.buf ∧ t.busy = s.busy ∧ t.turns = s.turns ∧ t.responses = s.responses ∧ t.sink = s.sink

/-- Each deposit is nothing, one event or one diagnostic. -/
theorem addsOneEntry_deposit (n : Nat) (w : Deposit) (s : State) : AddsOneEntry s (advance n (deposit w s)) := by
  cases w with
  | nothing => exact ⟨.inl ⟨rfl, rfl⟩, rfl, rfl, rfl, rfl, rfl⟩
  | record r =>
    rw [deposit, acceptRecord_eq]
    exact ⟨.inr (.inl ⟨⟨_, rfl⟩, rfl⟩), rfl, rfl, rfl, rfl, rfl⟩
  | frame e =>
    rw [deposit, routeEvent_eq]
    exact ⟨.inr (.inl ⟨⟨_, rfl⟩, rfl⟩), rfl, rfl, rfl, rfl, rfl⟩
  | logged e => exact ⟨.inr (.inr ⟨rfl, _, rfl⟩), rfl, rfl, rfl, rfl, rfl⟩

/-- Every inbound row makes one deposit and moves the cursor, whatever its operands. -/
theorem exec_inbound (i : Instr) (s : State) (h : i.channel = .inbound) :
    ∃ n w, exec i s = .next (advance n (deposit w s)) := by
  have sentence : ∀ k a b data, ∃ n w, exec (sentenceInstr k a b data) s = .next (advance n (deposit w s)) :=
    fun k a b data => ⟨_, _, by rw [exec_sentenceInstr, routeSentence_eq]⟩
  have frame : ∀ e n, ∃ m w, Host.Outcome.next (φ := Fault) (ρ := Refusal) (acceptFrame e n s)
      = .next (advance m (deposit w s)) := fun e n => ⟨frameLength n, .frame e, rfl⟩
  cases i with
  | nmeaRmc a b data => exact sentence .rmc a b data
  | nmeaGga a b data => exact sentence .gga a b data
  | nmeaGll a b data => exact sentence .gll a b data
  | nmeaGsa a b data => exact sentence .gsa a b data
  | nmeaGsv a b data => exact sentence .gsv a b data
  | nmeaVtg a b data => exact sentence .vtg a b data
  | nmeaGst a b data => exact sentence .gst a b data
  | nmeaGrs a b data => exact sentence .grs a b data
  | nmeaZda a b data => exact sentence .zda a b data
  | nmeaUnknown body => exact ⟨_, .logged _, rfl⟩
  | binAck payload =>
    rcases payload with _ | ⟨tg, _ | ⟨ts, more⟩⟩ <;> exact frame _ _
  | binNak payload =>
    rcases payload with _ | ⟨tg, _ | ⟨ts, more⟩⟩ <;> exact frame _ _
  | binRateResp payload =>
    rcases payload with _ | ⟨tg, _ | ⟨ts, _ | ⟨rate, more⟩⟩⟩ <;> exact frame _ _
  | binUnhandled g u payload => exact frame _ _
  | binBadChecksum g u payload ckA ckB => exact ⟨_, .logged _, rfl⟩
  | noise b => exact ⟨1, .nothing, rfl⟩
  | setRate | queryRate | feed | latest | getRate | buildSetRate | buildQueryRate | parseFrame | classify | validateNmea
    | parseNmea | xorSum | runSum | bufLen | reset | illegalRequest => simp [Instr.channel] at h

/-- Settles O18: an inbound row makes one deposit. -/
theorem oneEntryPerElement : Obligations.OneEntryPerElement := by
  intro i s h
  obtain ⟨n, w, hexec⟩ := exec_inbound i s h
  exact ⟨_, hexec, addsOneEntry_deposit n w s⟩

/-! ## Legal hosts (60 R258) -/

/-- The framer always has a next state (44 R196). -/
theorem exists_framerStep (s : State) : ∃ t, framerStep s = .next t := by
  rcases framerStep_cases s with ⟨_, h⟩ | ⟨c, _, h⟩ | ⟨pos, t, _, h, _⟩ | ⟨pos, _, h⟩ | ⟨_, h⟩ <;> exact ⟨_, h⟩

/-- A legal request is one of 30 R73, and no FEED from another path. -/
theorem request_of_legal {cfg : Config} {agent : Agent} {req : Bytes}
    (h : turnIsLegal cfg (.request agent req) = true) :
    ∃ i, decodeRequest req = .ok i ∧ isSecondPath agent i = false := by
  cases hreq : decodeRequest req with
  | error e => simp [turnIsLegal, hreq] at h
  | ok i =>
    refine ⟨i, rfl, ?_⟩
    rw [← Bool.not_eq_true, isSecondPath_iff]
    rintro ⟨⟨chunk, rfl⟩, hagent⟩
    simp [turnIsLegal, hreq, hagent] at h

/-- A turn that keeps the hosts' duties is one that the step takes. -/
theorem nextMove_of_legal {s : State} (h : hostsAreLegal s = true) (why : Refusal) : nextMove s ≠ .refuse why := by
  rw [hostsAreLegal] at h
  intro hmove
  cases hturns : s.turns with
  | nil => simp [nextMove, hturns] at hmove
  | cons turn rest =>
    rw [hturns, List.all_cons, Bool.and_eq_true] at h
    obtain ⟨hlegal, _⟩ := h
    cases turn with
    | framer => simp [nextMove, hturns] at hmove
    | request agent req =>
      obtain ⟨i, hreq, hpath⟩ := request_of_legal hlegal
      simp only [nextMove, hturns, hreq, hpath, Bool.false_eq_true, if_false] at hmove
      split at hmove <;> simp at hmove
    | transmit frame =>
      simp only [turnIsLegal] at hlegal
      simp only [nextMove, hturns] at hmove
      cases hframe : decodeOutbound s.cfg frame with
      | ok i => simp [hframe] at hmove
      | error e => simp [hframe] at hlegal

theorem HostCase.turns_suffix {i : Instr} {s t : State} (h : HostCase i s t) : t.turns <:+ s.turns := by
  cases h with
  | held _ _ eq => rw [eq]
  | reply _ eq => exact eq ▸ List.tail_suffix _
  | sent _ eq => exact eq ▸ List.tail_suffix _
  | started _ _ _ eq => exact eq ▸ List.tail_suffix _
  | wiped _ _ eq => exact eq ▸ List.tail_suffix _

/-- A step takes at most the turn at the head. -/
theorem step_turns_suffix {s t : State} (h : step s = .next t) : t.turns <:+ s.turns := by
  rcases step_cases h with ⟨_, hf⟩ | ⟨i, _, _, _, hcase⟩
  · rw [framerStep_turns hf]
    rcases takeFramerTurn_eq s with e | ⟨_, e⟩ <;> rw [e]
    exact List.tail_suffix _
  · exact hcase.turns_suffix

/-- Settles O14: no legal turn is refused, and a step takes turns away but adds none and keeps the parameters. -/
theorem legalHostsAreNeverRefused : Obligations.LegalHostsAreNeverRefused := by
  intro s h
  have hnext : ∃ t, step s = .next t := by
    cases hmove : nextMove s with
    | framer =>
      obtain ⟨t, ht⟩ := exists_framerStep (takeFramerTurn s)
      exact ⟨t, by simp only [step, hmove, ht]⟩
    | host i =>
      obtain ⟨t, ht, _⟩ := exec_of_nextMove hmove
      exact ⟨t, by simp only [step, hmove, ht]⟩
    | refuse why => exact absurd hmove (nextMove_of_legal h why)
  obtain ⟨t, ht⟩ := hnext
  refine ⟨t, ht, ?_⟩
  rw [hostsAreLegal, List.all_eq_true] at h ⊢
  rw [parametersNeverChange s t ht]
  exact fun turn hturn => h turn ((step_turns_suffix ht).subset hturn)

end Sys2Proof.Machine
end

section
/-!
PROOFS. What an accepted element writes into the store (O29, O35), and the transactions that read the block's state, run
a checksum engine or start the block again (O45, O50, O53, O54).
-/

namespace Sys2Proof.Machine

/-! ## The store operations (45 R211, R213) -/

/-- Settles O29: of all that an accepted sentence changes, the slots are those of one wholesale replacement. -/
theorem slotSentenceIsStored : Obligations.SlotSentenceIsStored := by
  intro s k a b data hslot haccepted
  obtain ⟨hown, hothers, _⟩ := Snapshots.set_spec s.snap k ⟨k, (a, b), storedFields s.cfg k (kindBody k a b data)⟩
  exact ⟨_, exec_sentenceInstr_of_accepted haccepted, hown hslot, hothers, rfl⟩

/-- A rate report is one write to the rate table, one event and a move of the cursor. -/
theorem exec_rateResp (tg ts rate : Byte) (more : Bytes) (s : State) :
    exec (.binRateResp (tg :: ts :: rate :: more)) s = .next { setRateEntry tg ts rate s with
      out := s.out ++ [.rate tg ts rate]
      framer := advanceFramer (more.length + 11) s.framer } :=
  congrArg Host.Outcome.next (acceptFrame_eq (.rate tg ts rate) (more.length + 3) s)

/-- Settles O35: the table after the report is the table after `setRate`. -/
theorem rateReportIsStored : Obligations.RateReportIsStored := by
  intro s tg ts rate more
  obtain ⟨hown, hothers, _⟩ := setRateEntry_spec tg ts rate s
  exact ⟨_, exec_rateResp tg ts rate more s, hown, hothers, rfl⟩

/-! ## GET_RATE, BUF_LEN and RESET (45 R214, R220, R229; 70 R271) -/

theorem exec_getRate (g u : Byte) (s : State) :
    exec (.getRate g u) s = .next (respond (.rate (rateOf g u s)) s) := rfl

/-- Settles O45: `getRate` reads the table at the key's number. -/
theorem getRateResponds : Obligations.GetRateResponds := fun s g u => exec_getRate g u s

theorem exec_bufLen_of_idle {s : State} (hb : s.busy = false) :
    exec .bufLen s = .next (respond (.natural s.buf.length) s) := by
  simp only [exec, execBufLen, hb, Bool.false_eq_true, if_false]

theorem exec_reset_of_idle {s : State} (hb : s.busy = false) :
    exec .reset s = .next (respond .empty (resetBlock s)) := by
  simp only [exec, execReset, hb, Bool.false_eq_true, if_false]

/-- What RESET puts in place is the start-up state of 70 R270 with the ports of before (log entry 15). -/
theorem resetBlock_eq_start (s : State) :
    resetBlock s = { State.start s.cfg with turns := s.turns, responses := s.responses, sink := s.sink } := rfl

/-- Settles O54: on an idle block neither transaction is held. -/
theorem bufLenAndResetRespond : Obligations.BufLenAndResetRespond := by
  intro s hb
  refine ⟨exec_bufLen_of_idle hb, ?_⟩
  rw [exec_reset_of_idle hb, resetBlock_eq_start]
  rfl

/-! ## VALIDATE_NMEA (40 R105, 45 R225) -/

theorem append_crLf_eq_encodeSentence (body : Bytes) :
    (dollar :: (body ++ star :: hexUpper (xorSum body))) ++ [cr, lf] = encodeSentence body := by
  simp [encodeSentence]

/-- ValidateNmea accepts the sentences of 30 R61, and each of them without its CR LF. -/
theorem validateNmea_iff_sentence (text : Bytes) :
    validateNmea text = true ↔ ∃ body, text = dollar :: (body ++ star :: hexUpper (xorSum body))
      ∨ text = encodeSentence body := by
  constructor
  · intro hvalid
    obtain ⟨body, hbody⟩ := (validateNmea_iff text).mp hvalid
    rcases stripCrLf_eq_or text with hsame | ⟨t, htext, hcut⟩
    · exact ⟨body, .inl (hsame.symm.trans hbody)⟩
    · refine ⟨body, .inr ?_⟩
      rw [htext, ← hcut, hbody, append_crLf_eq_encodeSentence]
  · rintro ⟨body, hbare | rfl⟩
    · have hfull : text ++ [cr, lf] = encodeSentence body := hbare ▸ append_crLf_eq_encodeSentence body
      exact (validateNmea_iff text).mpr ⟨body, (stripCrLf_of_encodeSentence hfull).trans hbare⟩
    · exact validateNmea_encodeSentence body

/-- Settles O50: the answer is ValidateNmea's. -/
theorem validateResponds : Obligations.ValidateResponds :=
  fun _ text => ⟨validateNmea text, rfl, validateNmea_iff_sentence text⟩

/-! ## XOR_SUM and RUN_SUM (40 R100, R102, R103; 45 R227, R228) -/

theorem xorSumFrom_eq_foldl (c : Byte) (b : Bytes) : xorSumFrom c b = b.foldl (fun c x => c ^^^ x) c := by
  induction b generalizing c with
  | nil => rfl
  | cons x xs ih => exact ih (c ^^^ x)

theorem runSumFrom_eq_foldl (c : Byte × Byte) (b : Bytes) :
    runSumFrom c.1 c.2 b = b.foldl (fun c x => (c.1 + x, c.2 + (c.1 + x))) c := by
  induction b generalizing c with
  | nil => rfl
  | cons x xs ih => exact ih (c.1 + x, c.2 + (c.1 + x))

/-- RunSum16 takes the first accumulator as its low byte. -/
theorem runSum16_eq_ofNat (b : Bytes) :
    runSum16 b = BitVec.ofNat 16 ((runSum b).1.toNat + 256 * (runSum b).2.toNat) := by
  rw [← littleEndian_toNat, BitVec.ofNat_toNat, BitVec.setWidth_eq, runSum16]

theorem exec_xorSum (b : Bytes) (s : State) : exec (.xorSum b) s = .next (respond (.byte (xorSum b)) s) := rfl

theorem exec_runSum (b : Bytes) (s : State) : exec (.runSum b) s = .next (respond (.word (runSum16 b)) s) := rfl

/-- Settles O53: each engine's loop is the fold, and the word is composed of the second engine's pair. -/
theorem checksumsRespond : Obligations.ChecksumsRespond := by
  intro s b
  have hxor : xorSum b = b.foldl (fun c x => c ^^^ x) 0 := xorSumFrom_eq_foldl 0 b
  have hrun : runSum b = b.foldl (fun c x => (c.1 + x, c.2 + (c.1 + x))) (0, 0) := runSumFrom_eq_foldl (0, 0) b
  refine ⟨?_, ?_⟩
  · rw [exec_xorSum, hxor]
    rfl
  · rw [exec_runSum, runSum16_eq_ofNat, hrun]
    rfl

end Sys2Proof.Machine
end

section
/-!
PROOFS. The exceptions of spec 60: an overlong field (O31), an unknown tag (O32), a sentence and a frame that fail their
checksums (O33, O37), and the error codes (O60). Each row logs one diagnostic and moves the cursor past the element.
-/

namespace Sys2Proof.Machine

/-! ## Rejected sentences (60 R245, R247, R248) -/

/-- Settles O31: the record of the body is its FIELD_OVERFLOW, and an error is routed to `DIAG` alone. -/
theorem overlongFieldRejectsSentence : Obligations.OverlongFieldRejectsSentence := by
  intro s k a b data i hpolicy hpos hcount hlong hfirst
  rw [exec_sentenceInstr, buildRecord_of_overlong (a, b) hpolicy hpos hcount hlong hfirst]
  rfl

/-- A sentence has at least 6 bytes, so its tag bytes are all there (41 R132). -/
theorem tagInfo_encodeSentence (body : Bytes) : tagInfo (encodeSentence body) = slice (encodeSentence body) 3 6 := by
  have hlen : 6 ≤ (encodeSentence body).length := by
    rw [length_encodeSentence, sentenceLength]
    exact Nat.le_add_left 6 body.length
  rw [tagInfo, Nat.min_eq_left hlen]

/-- Settles O32: the row logs `tagInfo` of its own span. -/
theorem unknownSentenceIsDropped : Obligations.UnknownSentenceIsDropped := by
  intro s body
  rw [← tagInfo_encodeSentence]
  rfl

/-- The checksum is the first check of ParseNmea (60 R250). -/
theorem parseNmea_of_invalid (cfg : Config) {text : Bytes} (h : validateNmea text = false) :
    parseNmea cfg text = .error (.checksumMismatch .nmea text.length) := by
  rw [parseNmea, if_pos h]

/-- Settles O33: the span ends at its first CR LF, and ParseNmea answers its checksum error. -/
theorem badSentenceIsSkipped : Obligations.BadSentenceIsSkipped := by
  intro s pos text rest hscan hbytes hfirst hinvalid
  have hlen : (dollar :: (text ++ [cr, lf])).length = text.length + 3 := by simp
  have hfront : sentenceFront s.cfg (text ++ cr :: lf :: rest)
      = some (text.length + 3, .logged (.checksumMismatch .nmea (text.length + 3))) := by
    rw [sentenceFront, beforeCrLf_append hfirst, Option.map_some, parseNmea_of_invalid s.cfg hinvalid, hlen]
    rfl
  rw [framerStep_dollar hscan hbytes, hfront, scanResult, advance_eq_setCursor ((deposit_framer _ s).trans hscan),
    ← Nat.add_assoc]
  rfl

/-! ## Rejected frames and the table of errors (60 R241, R244) -/

/-- Settles O37: the row logs and skips `frameLength` of its payload. -/
theorem badFrameIsSkipped : Obligations.BadFrameIsSkipped := fun _ _ _ _ _ _ => rfl

/-- Settles O60: each number stands in the definition of the two codes; a response without an error has code 0. -/
theorem errorCodes : Obligations.ErrorCodes :=
  ⟨rfl, rfl, rfl, rfl, fun _ _ => rfl, fun _ => rfl, fun _ => rfl, fun _ _ => rfl, fun _ _ => rfl, fun _ => rfl,
    fun _ => rfl⟩

end Sys2Proof.Machine
end

section
/-!
PROOFS. The reset values (O13): the empty stores answer `None`, in the start-up state of every instance (70 R270, R272).
-/

namespace Sys2Proof.Machine

@[simp] theorem Snapshots.get_reset (k : Kind) : Snapshots.reset.get k = none := by
  cases k <;> rfl

@[simp] theorem rateOf_start (cfg : Config) (g u : Byte) : rateOf g u (State.start cfg) = none := rfl

/-- Settles O13: the six slots and the rate table by their reads, the other elements as the start-up state lists them. -/
theorem resetValues : Obligations.ResetValues :=
  ⟨rfl, Snapshots.get_reset, rateOf_start Config.testInstance, rfl, rfl, rfl, rfl⟩

end Sys2Proof.Machine
end
